-- ==== Sys2Proof/Word.lean ====
section
/-! DEFINITION. The word types of the CV416 and its plainest arithmetic: bytes, 32-bit words,
Timebase values, and the 32-byte and 128-byte blocks the part moves over its bus-master port. -/

namespace Sys2Proof

/-- One byte of a record or of the setup block. -/
abbrev Byte := BitVec 8

/-- A 32-bit register, answer word or consumer report word (R182, R168). -/
abbrev Word := BitVec 32

/-- A Timebase value: microseconds in 32 bits, wrapping (scope file, 6.1). -/
abbrev Time := BitVec 32

/-- A 32-byte record, read as one little-endian number: the byte at offset `o` is bits
`8o+7 .. 8o` (R178). -/
abbrev Record := BitVec 256

/-- The 128-byte setup block, read as one little-endian number (R163, R178). -/
abbrev SetupBlock := BitVec 1024

/-- The smallest position of the range of R70. -/
def posMin : Int := -2147483648

/-- The largest position of the range of R70. -/
def posMax : Int := 2147483647

/-- A position lies in the signed 32-bit range (R70, R84, check 1c of R13). -/
def inRange (p : Int) : Bool := posMin ≤ p && p ≤ posMax

end Sys2Proof
end

