-- ==== Sys2Proof/Syntax.lean ====
section
/-! DEFINITION. The commands of the CV416: one constructor of `Instr` per row of
spec/opcode_table.json, with the operands the row's rule names; and the typed contents of a segment
record (R1, R2) that the axis window holds. -/

namespace Sys2Proof

/-- An axis A0..A3. -/
abbrev Axis := Fin 4
/-- An input line IN0..IN11. -/
abbrev Line := Fin 12
/-- A profile bank 0..7. -/
abbrev BankNo := Fin 8
/-- A signal 0..15. -/
abbrev SignalNo := Fin 16
/-- A rendezvous entry 0..7. -/
abbrev EntryNo := Fin 8
/-- A capture unit 0..3. -/
abbrev UnitNo := Fin 4
/-- A submission ring: 0..3 are the axis rings, 4 is CTL. -/
abbrev RingNo := Fin 5

/-- The two stop kinds of a halt cause (R96). -/
inductive StopKind where
  | soft
  | hard
deriving DecidableEq, Repr

/-- The transfers of the bus-master port, as a bus error names the one that failed (R175). -/
inductive Transfer where
  /-- The read of the setup block (R165). -/
  | setupRead
  /-- The fetch of a submission record (R167). -/
  | fetch (ring : RingNo)
  /-- The write of a completion record (R159). -/
  | cplWrite
  /-- The write of a ring's consumer report word (R168). -/
  | report (ring : RingNo)
deriving DecidableEq, Repr

/-- The commands the part takes: operations of the host on its registers, events at its pins, its
own timed events, the completions of its transfers, and the commands of the CTL ring. One
constructor per row of spec/opcode_table.json. A command of the CTL ring carries the 32-byte record
whose fetch completes (R136); its kind byte is the one the row names. -/
inductive Instr where
  -- resets
  | powerOn
  | resetLine (released : Bool)
  | softReset (w : Word)
  -- the register window
  | enableSet (w : Word)
  | enableClear (w : Word)
  | stopAllSoft (w : Word)
  | stopAllHard (w : Word)
  | setupLoWrite (w : Word)
  | setupHiWrite (w : Word)
  | post (w : Word)
  | cack (w : Word)
  | intsAcknowledge (w : Word)
  | registerWrite (offset : Word) (w : Word)
  -- events at the pins and of the clocked blocks
  | rawChange (line : Line) (high : Bool)
  | filterExpiry (line : Line)
  | encoderChange (axis : Axis) (encA encB : Bool)
  | mgStep (axis : Axis)
  | profilePhaseEnd (axis : Axis)
  | dwellExpiry (axis : Axis)
  | holdoffExpiry
  -- completions of transfers
  | fetchCompletion (axis : Axis) (record : Record)
  | setupReadCompletion (block : SetupBlock)
  | cplWriteCompletion
  | reportWriteCompletion (ring : RingNo)
  | busFault (transfer : Transfer)
  -- commands of the CTL ring
  | configAxis (record : Record)
  | configLine (record : Record)
  | setPosition (record : Record)
  | setOutputs (record : Record)
  | barrier (record : Record)
  | queryAxis (record : Record)
  | queryLines (record : Record)
  | writeBank (record : Record)
  | postSignal (record : Record)
  | clearSignal (record : Record)
  | openRendezvous (record : Record)
  | closeRendezvous (record : Record)
  | halt (record : Record)
  | resume (record : Record)
  | armCapture (record : Record)
  | disarmCapture (record : Record)
  | unknownCommandKind (record : Record)
  -- the release of the RESET pin
  | resetRelease
deriving DecidableEq, Repr

/-! ### The contents of a segment record -/

/-- The seven segment kinds with the fields R2 gives each. -/
inductive Work where
  | moveAbs (target : Int) (velocity : Nat)
  | moveRel (distance : Int) (velocity : Nat)
  | run (velocity : Int) (mustFollow : Bool)
  | stop
  | dwell (duration : Nat)
  | home (offset : Int) (velocity : Nat) (reverseOnLimit negative : Bool)
  | mark
deriving DecidableEq, Repr

/-- The edge kinds of WAIT_INPUT (R27). -/
inductive WaitEdge where
  | rise
  | fall
  | active
deriving DecidableEq, Repr

/-- The five start conditions with their arguments (R2). -/
inductive Start where
  | afterPrevious
  | waitInput (line : Line) (edge : WaitEdge)
  | waitSignal (signal : SignalNo)
  | waitPosition (watched : Axis) (up : Bool) (threshold : Int)
  | waitRendezvous (entry : EntryNo)
deriving DecidableEq, Repr

/-- An output action: a mask and a value over OUT0..OUT3 (R74). -/
structure OutAction where
  mask  : BitVec 4
  value : BitVec 4
deriving DecidableEq, Repr

/-- The fields of a segment record that meets the encoding of R179 and the requirements of R2. -/
structure SegBody where
  work       : Work
  bank       : BankNo
  start      : Start
  postSignal : Option SignalNo
  outStart   : OutAction
  outEnd     : OutAction
deriving DecidableEq, Repr

/-- A segment record as the window holds it. `bankUse` is the bank whose use count the record
raises at its join (R179: kind code 1 to 6 but DWELL, bank byte 0 to 7, valid or not); `body` is
absent when the record breaks R2 or the encoding, which check 1a finds at arming. -/
structure Segment where
  tag     : BitVec 16
  notify  : Bool
  bankUse : Option BankNo
  body    : Option SegBody
deriving DecidableEq, Repr

end Sys2Proof
end

