-- ==== Sys2Proof/Decode.lean ====
section
/-! DEFINITION. Reading records: the fields of a 32-byte record, the segment record (section 11.1,
R179, R2), and the command a word of the opcode table spells (the table gives no row any bits). -/

namespace Sys2Proof

/-- The byte of a record at offset `o` (R178). -/
def byteAt (r : Record) (o : Nat) : Byte := r.extractLsb' (8 * o) 8
/-- The 16-bit little-endian field of a record at offset `o` (R178). -/
def halfAt (r : Record) (o : Nat) : BitVec 16 := r.extractLsb' (8 * o) 16
/-- The 32-bit little-endian field of a record at offset `o` (R178). -/
def wordAt (r : Record) (o : Nat) : Word := r.extractLsb' (8 * o) 32
/-- Every byte of a record from offset `a` up to, not including, offset `b` is zero. -/
def zeroBytes (r : Record) (a b : Nat) : Bool := r.extractLsb' (8 * a) (8 * (b - a)) == 0

/-- A code below `n` as a number of that range. -/
def codeBelow (n : Nat) (b : Byte) : Option (Fin n) :=
  if h : b.toNat < n then some ⟨b.toNat, h⟩ else none

/-- The requirements of R2 by kind, with the flags each kind allows; `none` where they are broken.
NOTIFY (bit 0 of the flags) is allowed on every kind. -/
def decodeWork (kind : Nat) (target : Int) (velocity : Nat) (flags : Byte) : Option Work :=
  let only (allowed : Byte) : Bool := flags &&& ~~~(allowed ||| 1#8) == 0
  let cruise : Bool := 1 ≤ velocity && velocity ≤ 1000000
  match kind with
  | 1 => if cruise && only 0 then some (.moveAbs target velocity) else none
  | 2 => if cruise && only 0 then some (.moveRel target velocity) else none
  | 3 => if velocity == 0 && target.natAbs ≤ 1000000 && only 2 then
           some (.run target (flags.getLsbD 1)) else none
  | 4 => if velocity == 0 && target == 0 && only 0 then some .stop else none
  | 5 => if velocity == 0 && 1 ≤ target && only 0 then some (.dwell target.toNat) else none
  | 6 => if cruise && only 12 then
           some (.home target velocity (flags.getLsbD 2) (flags.getLsbD 3)) else none
  | 7 => if velocity == 0 && target == 0 && only 0 then some .mark else none
  | _ => none

/-- The requirements of R2 by start condition, on the two argument bytes and the threshold. -/
def decodeStart (start : Nat) (arg0 arg1 : Byte) (threshold : Int) : Option Start :=
  match start with
  | 0 => if arg0 == 0 && arg1 == 0 && threshold == 0 then some .afterPrevious else none
  | 1 =>
    if threshold == 0 then
      match codeBelow 12 arg0, arg1.toNat with
      | some l, 1 => some (.waitInput l .rise)
      | some l, 2 => some (.waitInput l .fall)
      | some l, 3 => some (.waitInput l .active)
      | _, _ => none
    else none
  | 2 => if threshold == 0 && arg1 == 0 then (codeBelow 16 arg0).map .waitSignal else none
  | 3 =>
    match codeBelow 4 arg0, arg1.toNat with
    | some a, 1 => some (.waitPosition a true threshold)
    | some a, 2 => some (.waitPosition a false threshold)
    | _, _ => none
  | 4 => if threshold == 0 && arg1 == 0 then (codeBelow 8 arg0).map .waitRendezvous else none
  | _ => none

/-- An output action: mask and value bytes with bits 4-7 zero (R179, R2). -/
def decodeOut (mask value : Byte) : Option OutAction :=
  if mask.toNat < 16 && value.toNat < 16 then some ⟨mask.setWidth 4, value.setWidth 4⟩ else none

/-- The post_signal byte: 0 NONE, 1..16 for the signals 0..15 (section 11.1). -/
def decodePost (b : Byte) : Option (Option SignalNo) :=
  if b == 0 then some none else (codeBelow 16 (b - 1)).map some

/-- The fields of a segment record, `none` where the record breaks the encoding or R2: the record
that check 1a of R13 rejects with BAD_FIELD. -/
def decodeBody (r : Record) : Option SegBody := do
  let work ← decodeWork (byteAt r 0).toNat (wordAt r 12).toInt (wordAt r 16).toNat (byteAt r 5)
  let start ← decodeStart (byteAt r 1).toNat (byteAt r 6) (byteAt r 7) (wordAt r 8).toInt
  let bank ← codeBelow 8 (byteAt r 4)
  let postSignal ← decodePost (byteAt r 20)
  let outStart ← decodeOut (byteAt r 21) (byteAt r 22)
  let outEnd ← decodeOut (byteAt r 23) (byteAt r 24)
  if zeroBytes r 25 32 then some ⟨work, bank, start, postSignal, outStart, outEnd⟩ else none

/-- The bank whose use count the record raises at its join (R179): a kind code of 1 to 6 other than
DWELL's and a bank byte of 0 to 7, whether or not the record is valid. -/
def decodeBankUse (r : Record) : Option BankNo :=
  let k := (byteAt r 0).toNat
  if 1 ≤ k && k ≤ 6 && k != 5 then codeBelow 8 (byteAt r 4) else none

/-- The segment record of section 11.1. Tag and NOTIFY are read whatever the rest holds (R179). -/
def decodeSegment (r : Record) : Segment :=
  { tag := halfAt r 2, notify := (byteAt r 5).getLsbD 0, bankUse := decodeBankUse r,
    body := decodeBody r }

/-! ### Writing segment records -/

/-- The record made of a list of bytes, the first at offset 0 (R178). -/
def ofBytes (l : List Byte) : Record := l.foldr (fun b r => r <<< 8 ||| b.setWidth 256) 0

/-- The bytes of a 16-bit field (R178). -/
def bytes16 (v : BitVec 16) : List Byte := [v.extractLsb' 0 8, v.extractLsb' 8 8]

/-- The bytes of a 32-bit field (R178). -/
def bytes32 (v : Word) : List Byte :=
  [v.extractLsb' 0 8, v.extractLsb' 8 8, v.extractLsb' 16 8, v.extractLsb' 24 8]

/-- The kind code of a work (section 11.1). -/
def Work.kindCode : Work → Byte
  | .moveAbs _ _ => 1 | .moveRel _ _ => 2 | .run _ _ => 3 | .stop => 4 | .dwell _ => 5
  | .home _ _ _ _ => 6 | .mark => 7

/-- The flags byte of a work, NOTIFY apart (section 11.1). -/
def Work.flagBits : Work → Byte
  | .run _ follow => if follow then 2 else 0
  | .home _ _ reverse negative => (if reverse then 4 else 0) ||| (if negative then 8 else 0)
  | _ => 0

/-- The target field of a work (R2). -/
def Work.targetField : Work → Int
  | .moveAbs t _ | .moveRel t _ | .run t _ | .home t _ _ _ => t
  | .dwell d => d
  | .stop | .mark => 0

/-- The velocity field of a work (R2). -/
def Work.velocityField : Work → Nat
  | .moveAbs _ v | .moveRel _ v | .home _ v _ _ => v
  | .run _ _ | .stop | .dwell _ | .mark => 0

/-- The start code, the two argument bytes and the threshold of a start condition (section 11.1). -/
def Start.fields : Start → Byte × Byte × Byte × Int
  | .afterPrevious => (0, 0, 0, 0)
  | .waitInput l e =>
    (1, BitVec.ofNat 8 l.val, match e with | .rise => 1 | .fall => 2 | .active => 3, 0)
  | .waitSignal n => (2, BitVec.ofNat 8 n.val, 0, 0)
  | .waitPosition a up t => (3, BitVec.ofNat 8 a.val, if up then 1 else 2, t)
  | .waitRendezvous e => (4, BitVec.ofNat 8 e.val, 0, 0)

/-- The post_signal byte (section 11.1). -/
def postByte : Option SignalNo → Byte
  | none => 0
  | some n => BitVec.ofNat 8 (n.val + 1)

/-- The segment record of section 11.1 that holds the given fields. -/
def encodeSegment (tag : BitVec 16) (notify : Bool) (b : SegBody) : Record :=
  let s := b.start.fields
  ofBytes ([b.work.kindCode, s.1] ++ bytes16 tag
    ++ [BitVec.ofNat 8 b.bank.val, b.work.flagBits ||| (if notify then 1 else 0), s.2.1, s.2.2.1]
    ++ bytes32 (BitVec.ofInt 32 s.2.2.2) ++ bytes32 (BitVec.ofInt 32 b.work.targetField)
    ++ bytes32 (BitVec.ofNat 32 b.work.velocityField)
    ++ [postByte b.postSignal, b.outStart.mask.setWidth 8, b.outStart.value.setWidth 8,
        b.outEnd.mask.setWidth 8, b.outEnd.value.setWidth 8])

/-- The ranges that R2 gives the fields of a segment. -/
def SegBody.wf (b : SegBody) : Bool :=
  (match b.work with
    | .moveAbs t v | .moveRel t v | .home t v _ _ => inRange t && 1 ≤ v && v ≤ 1000000
    | .run r _ => r.natAbs ≤ 1000000
    | .dwell d => 1 ≤ d && d ≤ 2147483647
    | .stop | .mark => true)
  && (match b.start with
    | .waitPosition _ _ t => inRange t
    | _ => true)

/-- The bank whose use count a record of these fields raises (R5). -/
def SegBody.bankUse (b : SegBody) : Option BankNo :=
  match b.work with
  | .dwell _ | .mark => none
  | _ => some b.bank

/-- The command spelled by a word of the opcode table: the table gives none of its rows any bits, so
no word spells a command. -/
def decodeTableWord (_nbits _w : Nat) : Option Instr := none

end Sys2Proof
end

