-- ==== Sys2Proof/Config.lean ====
section
/-! DEFINITION. What an implementation of the CV416 fixes and the manual does not state: two free
values, neither with a body, and the format version IDENT carries (section 11.5). -/

namespace Sys2Proof.Config

/-- FREE VALUE (log entry 7). A velocity is an exact quantity while a ramp runs and the manual does
not say how the part brings a fractional magnitude to the whole steps per second of a record or of
an answer word: for each squared magnitude, whether the part takes the next whole number up. -/
opaque speedRoundsUp : Rat → Bool

/-- FREE VALUE (log entry 8). R164 reports "the later area of the first overlapping pair found" and
does not say in which order the pairs are looked at: `true` when the search goes by the later area
first, `false` when it goes by the earlier one. -/
opaque overlapByLaterArea : Bool

/-- The format version held by IDENT (section 11.5). -/
def ident : Word := 0x00020001#32

end Sys2Proof.Config
end

