-- ==== Sys2Proof/Machine/State.lean ====
section
/-! DEFINITION. The state of the CV416 as plain data, everything the manual gives the part, block by
block; the outcomes a command can have; and the state after reset. Types only: the operations over
them are in the other files of this folder. -/

namespace Sys2Proof.Machine

/-! ### Outcomes -/

/-- Reasons for which the machine stops. The manual names none: every row of the table has an effect
(or none at all) in every state, so no command faults. -/
inductive Fault
deriving DecidableEq, Repr

/-- Reasons for which a command has no meaning. -/
inductive Refusal where
  /-- Raised only by an arm of `exec` without a meaning; safe, since nothing follows it. -/
  | notModelled (mnemonic : String)
deriving DecidableEq, Repr

/-! ### The Motion Generator and the Profile Bank Table -/

/-- The four values of a profile (R75). -/
structure Profile where
  accel  : Nat
  decel  : Nat
  vstart : Nat
  vstop  : Nat
deriving DecidableEq, Repr

/-- A profile bank (R75). -/
structure Bank where
  profile : Profile
  written : Bool
  uses    : Nat
deriving DecidableEq, Repr

/-- The motion states (R51). -/
inductive MotionState where
  | still
  | accel
  | cruise
  | decel
  | hold
  | stopRamp
deriving DecidableEq, Repr

/-- The goal of the active segment's motion (R50). -/
inductive Goal where
  | none
  | position (target : Int)
  | velocity (v : Int)
  | standstill
  | dwell (expiry : Time)
deriving DecidableEq, Repr

/-- The form of a motion toward an end position: the three of R55, and the descent of SETTLE onto
the end position fixed at the home edge (R83). -/
inductive Form where
  | trapezoid
  | triangle
  | flat
  | settle
deriving DecidableEq, Repr

/-- A position watcher (R30); the set of an MG holds at most one for each watching axis. -/
structure Watcher where
  up        : Bool
  threshold : Int
deriving DecidableEq, Repr

/-- A Motion Generator (R50). The velocity is held exactly: its sign is `positive` (the DIR output,
R53, R132) and `speedSq` is the square of its magnitude, in (steps/s)². The square is a rational
number at every event of a profile (R54), where the magnitude need not be. -/
structure MG where
  /-- The commanded position. -/
  pos : Int
  /-- The DIR output: high for positive; the sign of the velocity while that is not 0. -/
  positive : Bool
  /-- The square of the magnitude of the velocity. -/
  speedSq : Rat
  /-- The part of a step travelled since the last step (R53: the distance travelled since the
  velocity last left 0, less the steps taken). -/
  frac : Rat
  motion : MotionState
  /-- The active profile. -/
  profile : Profile
  goal : Goal
  /-- The cruise velocity of the motion toward an end position (R55, R56). -/
  cruise : Nat
  form : Form
  /-- The first part of a reversal is running (R57). -/
  reversing : Bool
  /-- The deceleration of the running descent to zero: the profile's decel, or the axis stop_decel
  in a stop ramp (R68) and in SEARCH_BACK (R82). -/
  rate : Nat
  /-- The watcher set, by watching axis. -/
  watchers : Vector (Option Watcher) 4
  /-- MODEL'S OWN: the number of pulses produced on STEP (R132). -/
  pulses : Nat
deriving DecidableEq, Repr

/-! ### The Axis Sequencer -/

/-- The sub-cause of SQ_WAIT (R9). -/
inductive WaitCause where
  | cond
  | place
deriving DecidableEq, Repr

/-- The sequencer states (R9). -/
inductive SqState where
  | off
  | empty
  | wait (sub : WaitCause)
  | run
  | halting
  | halted
deriving DecidableEq, Repr

/-- The halt reasons (R96). -/
inductive HaltReason where
  | limitNeg | limitPos | softLimitNeg | softLimitPos | following | encoder | host | stopAll
  | reject | underrun | group | homeFail | bus | drain
deriving DecidableEq, Repr

/-- The rejection reasons (R13). -/
inductive RejectReason where
  | badField | noHomeLine | positionRange | bankEmpty | velocityLimit | softLimitTarget
  | directionBlocked | rdvClosed | rdvNotMember | rdvBroken
deriving DecidableEq, Repr

/-- The progress of a PENDING entry through arming (R4). -/
inductive Progress where
  | notArmed
  | waitCond
  | waitStart
  | waitReject (reason : RejectReason)
deriving DecidableEq, Repr

/-- The phases of a homing run (R78). -/
inductive HomePhase where
  | leadIn | clear | search | searchBack | settle
deriving DecidableEq, Repr

/-- The homing state an active HOME entry holds (R78). -/
structure HomeState where
  phase : HomePhase
  /-- The search direction is positive. -/
  searchPositive : Bool
  homePoint : Option Int
  edgeCount : Option Word
deriving DecidableEq, Repr

/-- The state of a window entry (R4); an active HOME holds its homing state. -/
inductive EntryState where
  | pending (progress : Progress)
  | active (home : Option HomeState)
deriving DecidableEq, Repr

/-- An entry of a segment window (R4). -/
structure Entry where
  seg   : Segment
  seq   : BitVec 16
  state : EntryState
deriving DecidableEq, Repr

/-- An Axis Sequencer: state, halt reason (R9), window (R4) and the four direction-block components
(R90). -/
structure Seq where
  sq      : SqState
  reason  : Option HaltReason
  window  : List Entry
  lineNeg : Bool
  linePos : Bool
  posNeg  : Bool
  posPos  : Bool
deriving DecidableEq, Repr

/-- The configuration of an axis, every item of R140. -/
structure AxisConfig where
  enabled        : Bool
  limitNeg       : Option Line
  limitPos       : Option Line
  homeLine       : Option Line
  limitAction    : StopKind
  softLimits     : Bool
  lo             : Int
  hi             : Int
  stopDecel      : Nat
  vmax           : Nat
  faultAction    : StopKind
  encNum         : Nat
  encDen         : Nat
  tolerance      : Nat
  disableOnFault : Bool
deriving DecidableEq, Repr

/-- A Feedback Monitor (R111). -/
structure FBM where
  count      : Word
  encA       : Bool
  encB       : Bool
  ref        : Int
  homeCount  : Word
  tripped    : Bool
  enaDropped : Bool
deriving DecidableEq, Repr

/-- What an axis holds. -/
structure AxisState where
  cfg : AxisConfig
  seq : Seq
  mg  : MG
  fbm : FBM
deriving DecidableEq, Repr

/-! ### Shared tables -/

/-- A signal of the Signal Board (R32). -/
structure Signal where
  count   : Nat
  waiters : List Axis
deriving DecidableEq, Repr

/-- The states of a rendezvous entry (R40). -/
inductive RdvState where
  | closed | opened | broken
deriving DecidableEq, Repr

/-- A rendezvous entry (R40). A set of axes has bit n for axis n (R178). -/
structure Rdv where
  state     : RdvState
  members   : BitVec 4
  arrived   : BitVec 4
  fireCount : BitVec 16
  lastFire  : Time
deriving DecidableEq, Repr

/-! ### Capture Units and lines -/

/-- The edges an armed capture unit takes (R119). -/
inductive CapEdge where
  | rise | fall | both
deriving DecidableEq, Repr

/-- The configuration of an armed capture unit (R119). -/
structure CapConfig where
  line       : Line
  edge       : CapEdge
  axis       : Axis
  continuous : Bool
deriving DecidableEq, Repr

/-- A pending capture (R119). -/
structure CapPending where
  rise   : Bool
  pos    : Int
  count  : Word
  time   : Time
  missed : Nat
deriving DecidableEq, Repr

/-- A capture unit in one of its four states (R119). -/
inductive CapUnit where
  | disarmed
  | armed (cfg : CapConfig)
  | armedPending (cfg : CapConfig) (pend : CapPending)
  | spentPending (cfg : CapConfig) (pend : CapPending)
deriving DecidableEq, Repr

/-- An input line (R125). The raw level is the pin level read through the polarity. -/
structure LineState where
  pin          : Bool
  activeLow    : Bool
  filterTime   : Nat
  stopAll      : Option StopKind
  filtered     : Bool
  pendingSince : Option Time
deriving DecidableEq, Repr

/-! ### The Completion Unit -/

/-- The completion kinds (chapter 9, section 11.3). -/
inductive CplKind where
  | segDone | segAborted | segRejected | cmdDone | axisHalted | capture | signalOverflow | drainFlush
deriving DecidableEq, Repr

/-- A completion record before its phase is written (section 11.3). `status` and `second` hold the
codes of that section's table. -/
structure Completion where
  kind   : CplKind
  ring   : Byte
  seq    : BitVec 16
  tag    : BitVec 16
  status : Byte
  second : Byte
  pos    : Word
  aux    : Word
  time   : Time
  notify : Bool
deriving DecidableEq, Repr

/-- Who holds a reservation (R153). A member of a fire holds its place as its own axis. -/
inductive Holder where
  | axis (a : Axis)
  | cte
deriving DecidableEq, Repr

/-- The holding queue (R152) by the states of its eight places: the RESERVED ones with their
holders, the FILLED ones in write order, and the WRITING one. The rest of the eight are FREE. -/
structure Queue where
  reserved : List Holder
  filled   : List Completion
  writing  : Option Completion
deriving DecidableEq, Repr

/-- An entry of the owed list (R154). A CAPTURE's content stands in its unit and a SIGNAL_OVERFLOW's
on the board. -/
inductive Owed where
  | axisHalted (a : Axis) (reason : HaltReason) (second : Option HaltReason) (pos vel : Word)
      (time : Time)
  | capture (u : UnitNo)
  | signalOverflow
  | drainFlush (a : Axis) (count : Nat) (first : BitVec 16) (time : Time)
deriving DecidableEq, Repr

/-- A resolution claim waiting at the place arbiter (R155). -/
inductive Claim where
  | axis (a : Axis)
  | fire (e : EntryNo)
deriving DecidableEq, Repr

/-- The CPL indices (R157) and where the ring lies (R166). -/
structure CplRing where
  base : BitVec 64
  size : Nat
  prod : Nat
  host : Nat
deriving DecidableEq, Repr

/-- The interrupt moderator (R161). -/
structure Moderator where
  count     : Nat
  threshold : Nat
  holdoff   : Nat
  timer     : Option Time
  causeCount   : Bool
  causeHoldoff : Bool
  causeDevice  : Bool
deriving DecidableEq, Repr

/-! ### Rings, Control Engine and device -/

/-- The fetch state of a ring (R167). -/
inductive FetchState where
  | idle | inFlight | discard
deriving DecidableEq, Repr

/-- The report state of a ring (R168): the word of the write in flight, and whether a further report
is due. -/
inductive ReportState where
  | idle
  | writing (word : Word) (again : Bool)
deriving DecidableEq, Repr

/-- A submission ring (R167). -/
structure Ring where
  base   : BitVec 64
  size   : Nat
  prod   : Nat
  cons   : Nat
  seqNo  : BitVec 16
  fetch  : FetchState
  report : ReportState
deriving DecidableEq, Repr

/-- The record of a waiting BARRIER (R135): the account its CMD_DONE will carry, the named axes, the
barrier counts, and for each axis whether the record in flight at the execution has still to pass
(that one is not counted, R146). -/
structure BarrierRec where
  seq     : BitVec 16
  tag     : BitVec 16
  notify  : Bool
  axes    : BitVec 4
  counts  : Vector Nat 4
  skip    : Vector Bool 4
deriving DecidableEq, Repr

/-- The engine states of the Control Engine (R135). -/
inductive Cte where
  | idle
  | claim
  | fetch
  | barrier (rec : BarrierRec)
deriving DecidableEq, Repr

/-- The device states (chapter 10). -/
inductive DevState where
  | off | load | run | drain | fault
deriving DecidableEq, Repr

/-- The fault codes (R172). -/
inductive FaultCode where
  | none | setupVersion | setupSize | setupIndex | setupAlign | setupOverlap | setupIrq
  | busRead | busWrite | postRange
deriving DecidableEq, Repr

/-- The fault sources (R172). -/
inductive FaultSource where
  | none
  | ring (r : RingNo)
  | cpl | setup | report
deriving DecidableEq, Repr

/-! ### The whole part -/

/-- The state of the part. -/
structure State where
  /-- MODEL'S OWN: the commands that are waiting, first in, first out. -/
  pending : List Instr
  /-- The Timebase. -/
  time : Time
  /-- The RESET pin is held low (R134). -/
  resetHeld : Bool
  -- Device State Controller
  dev : DevState
  enable : Bool
  faultCode : FaultCode
  faultSource : FaultSource
  setupLo : Word
  setupHi : Word
  -- registers
  postReg : Word
  -- Ring Fetch Unit
  rings : Vector Ring 5
  reportAddr : BitVec 64
  -- Completion Unit
  cpl : CplRing
  queue : Queue
  owed : List Owed
  claims : List Claim
  moderator : Moderator
  -- Control Engine
  cte : Cte
  -- axes
  axes : Vector AxisState 4
  -- shared tables
  banks : Vector Bank 8
  signals : Vector Signal 16
  overflowMask : BitVec 16
  overflowTime : Time
  rdv : Vector Rdv 8
  -- machine side
  caps : Vector CapUnit 4
  lines : Vector LineState 12
  outs : BitVec 4
deriving DecidableEq, Repr

/-! ### Reset values -/

/-- All values 0 (R50, R75). -/
def Profile.reset : Profile := ⟨0, 0, 0, 0⟩
/-- An unwritten bank (R75). -/
def Bank.reset : Bank := ⟨.reset, false, 0⟩

/-- R50 after power-on and the RESET line; DIR high (R53, R132). -/
def MG.reset : MG :=
  { pos := 0, positive := true, speedSq := 0, frac := 0, motion := .still, profile := .reset,
    goal := .none, cruise := 0, form := .trapezoid, reversing := false, rate := 0,
    watchers := Vector.replicate 4 none, pulses := 0 }

/-- R11, R90. -/
def Seq.reset : Seq :=
  { sq := .off, reason := none, window := [], lineNeg := false, linePos := false,
    posNeg := false, posPos := false }

/-- R140. -/
def AxisConfig.reset : AxisConfig :=
  { enabled := false, limitNeg := none, limitPos := none, homeLine := none, limitAction := .soft,
    softLimits := false, lo := 0, hi := 0, stopDecel := 0, vmax := 0, faultAction := .soft,
    encNum := 1, encDen := 1, tolerance := 0, disableOnFault := false }

/-- R111, with the pair found at the encoder inputs. -/
def FBM.reset (encA encB : Bool) : FBM :=
  { count := 0, encA := encA, encB := encB, ref := 0, homeCount := 0, tripped := false,
    enaDropped := false }

/-- An axis after power-on and the RESET line, with the pair found at its encoder inputs. -/
def AxisState.reset (encA encB : Bool) : AxisState :=
  { cfg := .reset, seq := .reset, mg := .reset, fbm := .reset encA encB }

/-- R32. -/
def Signal.reset : Signal := ⟨0, []⟩
/-- R40. -/
def Rdv.reset : Rdv := ⟨.closed, 0, 0, 0, 0⟩
/-- R125, with the level of the pin: the filtered level is the raw level, without an edge. -/
def LineState.reset (pin : Bool) : LineState :=
  { pin := pin, activeLow := false, filterTime := 0, stopAll := none, filtered := pin,
    pendingSince := none }
/-- R152. -/
def Queue.reset : Queue := ⟨[], [], none⟩
/-- R167, cleared (R177). -/
def Ring.reset : Ring := ⟨0, 0, 0, 0, 0, .idle, .idle⟩
/-- R157, cleared (R177). -/
def CplRing.reset : CplRing := ⟨0, 0, 0, 0⟩
/-- R161; threshold and holdoff before any setup block is read are the model's (log entry 2). -/
def Moderator.reset : Moderator := ⟨0, 1, 0, none, false, false, false⟩

/-- The state after power-on or the RESET line (R177 and the reset rule of each block), given the
levels of the input pins and of the encoder inputs. -/
def State.afterReset (pins : Vector Bool 12) (enc : Vector (Bool × Bool) 4) : State :=
  { pending := [], time := 0, resetHeld := false, dev := .off, enable := false,
    faultCode := .none, faultSource := .none, setupLo := 0, setupHi := 0, postReg := 0,
    rings := Vector.replicate 5 .reset, reportAddr := 0, cpl := .reset, queue := .reset,
    owed := [], claims := [], moderator := .reset, cte := .idle,
    axes := enc.map fun p => .reset p.1 p.2,
    banks := Vector.replicate 8 .reset, signals := Vector.replicate 16 .reset,
    overflowMask := 0, overflowTime := 0, rdv := Vector.replicate 8 .reset,
    caps := Vector.replicate 4 .disarmed, lines := pins.map .reset, outs := 0 }

/-- The machine right after reset; every input pin and encoder input low (log entry 1). -/
def State.reset : State :=
  State.afterReset (Vector.replicate 12 false) (Vector.replicate 4 (false, false))

end Sys2Proof.Machine
end

