-- ==== Sys2Proof/Machine/Ops.lean ====
section
/-! DEFINITION. The named operations over the registers of the part: reading and replacing one axis,
ring, bank, signal, rendezvous entry, capture unit or line; sets of axes; the Timebase; the window's
candidate; and the direction blocks. -/

namespace Sys2Proof.Machine

/-! ### Indexed state -/

/-- Replace one component of a fixed family. -/
def setAt {α : Type} {n : Nat} (v : Vector α n) (i : Fin n) (x : α) : Vector α n :=
  v.set i.val x i.isLt

/-- The four axes in ascending order, the order of a step that acts on several axes (R152, R154,
R155). -/
def allAxes : List Axis := [0, 1, 2, 3]
/-- The twelve input lines in ascending order. -/
def allLines : List Line := [0, 1, 2, 3, 4, 5, 6, 7, 8, 9, 10, 11]
/-- The sixteen signals in ascending order. -/
def allSignals : List SignalNo := [0, 1, 2, 3, 4, 5, 6, 7, 8, 9, 10, 11, 12, 13, 14, 15]
/-- The eight rendezvous entries in ascending order. -/
def allEntries : List EntryNo := [0, 1, 2, 3, 4, 5, 6, 7]
/-- The four capture units in ascending order. -/
def allUnits : List UnitNo := [0, 1, 2, 3]
/-- The five submission rings in ascending order. -/
def allRings : List RingNo := [0, 1, 2, 3, 4]

/-- Apply one change for each item of a list, in order. -/
def forEach {α : Type} (l : List α) (f : α → State → State) (s : State) : State :=
  l.foldl (fun s x => f x s) s

/-- The state of an axis. -/
def State.axis (s : State) (a : Axis) : AxisState := s.axes.get a
/-- Change the state of one axis. -/
def State.modAxis (s : State) (a : Axis) (f : AxisState → AxisState) : State :=
  { s with axes := setAt s.axes a (f (s.axis a)) }
/-- The Motion Generator of an axis. -/
def State.mg (s : State) (a : Axis) : MG := (s.axis a).mg
/-- The sequencer of an axis. -/
def State.seq (s : State) (a : Axis) : Seq := (s.axis a).seq
/-- The configuration of an axis. -/
def State.cfg (s : State) (a : Axis) : AxisConfig := (s.axis a).cfg
/-- The Feedback Monitor of an axis. -/
def State.fbm (s : State) (a : Axis) : FBM := (s.axis a).fbm
/-- Change the Motion Generator of one axis. -/
def State.modMg (s : State) (a : Axis) (f : MG → MG) : State :=
  s.modAxis a fun x => { x with mg := f x.mg }
/-- Change the sequencer of one axis. -/
def State.modSeq (s : State) (a : Axis) (f : Seq → Seq) : State :=
  s.modAxis a fun x => { x with seq := f x.seq }
/-- Change the Feedback Monitor of one axis. -/
def State.modFbm (s : State) (a : Axis) (f : FBM → FBM) : State :=
  s.modAxis a fun x => { x with fbm := f x.fbm }
/-- Set the sequencer state of one axis. -/
def State.setSq (s : State) (a : Axis) (q : SqState) : State := s.modSeq a fun x => { x with sq := q }

/-- A submission ring. -/
def State.ring (s : State) (r : RingNo) : Ring := s.rings.get r
/-- Change one submission ring. -/
def State.modRing (s : State) (r : RingNo) (f : Ring → Ring) : State :=
  { s with rings := setAt s.rings r (f (s.ring r)) }
/-- The ring of an axis (ring numbers 0 to 3). -/
def axisRing (a : Axis) : RingNo := a.castSucc
/-- The control ring. -/
def ctl : RingNo := 4

/-- A bank. -/
def State.bank (s : State) (b : BankNo) : Bank := s.banks.get b
/-- Change one bank. -/
def State.modBank (s : State) (b : BankNo) (f : Bank → Bank) : State :=
  { s with banks := setAt s.banks b (f (s.bank b)) }
/-- Raise the use count of the bank a record uses, if it uses one (R76). -/
def State.raiseUse (s : State) (b : Option BankNo) : State :=
  match b with
  | some b => s.modBank b fun x => { x with uses := x.uses + 1 }
  | none => s
/-- Lower the use count of the bank a record uses, if it uses one (R76). -/
def State.lowerUse (s : State) (b : Option BankNo) : State :=
  match b with
  | some b => s.modBank b fun x => { x with uses := x.uses - 1 }
  | none => s

/-- A signal. -/
def State.signal (s : State) (n : SignalNo) : Signal := s.signals.get n
/-- Change one signal. -/
def State.modSignal (s : State) (n : SignalNo) (f : Signal → Signal) : State :=
  { s with signals := setAt s.signals n (f (s.signal n)) }
/-- A rendezvous entry. -/
def State.entry (s : State) (e : EntryNo) : Rdv := s.rdv.get e
/-- Change one rendezvous entry. -/
def State.modEntry (s : State) (e : EntryNo) (f : Rdv → Rdv) : State :=
  { s with rdv := setAt s.rdv e (f (s.entry e)) }
/-- A capture unit. -/
def State.cap (s : State) (u : UnitNo) : CapUnit := s.caps.get u
/-- Replace one capture unit. -/
def State.setCap (s : State) (u : UnitNo) (c : CapUnit) : State := { s with caps := setAt s.caps u c }
/-- An input line. -/
def State.line (s : State) (l : Line) : LineState := s.lines.get l
/-- Change one input line. -/
def State.modLine (s : State) (l : Line) (f : LineState → LineState) : State :=
  { s with lines := setAt s.lines l (f (s.line l)) }

/-! ### Sets of axes -/

/-- The set holding one axis (R178). -/
def axisBit (a : Axis) : BitVec 4 := 1#4 <<< a.val
/-- An axis is a member of a set. -/
def inSet (a : Axis) (m : BitVec 4) : Bool := m.getLsbD a.val
/-- The members of a set in ascending order. -/
def members (m : BitVec 4) : List Axis := allAxes.filter (inSet · m)
/-- The set of the axes that satisfy a test. -/
def axisSet (p : Axis → Bool) : BitVec 4 :=
  allAxes.foldl (fun m a => if p a then m ||| axisBit a else m) 0

/-! ### Device states and the Timebase -/

/-- The Completion Unit and the transfers run in DS_RUN and DS_DRAIN (R156, R157). -/
def State.active (s : State) : Bool := s.dev == .run || s.dev == .drain

/-- The device states in which faults are tested and STOP_ALL requests act (R109, R114, R117). -/
def State.supervised (s : State) : Bool := s.dev == .run || s.dev == .drain || s.dev == .fault

/-- The Timebase at a timed event: it has reached `t`. Where the model's Timebase has not yet, it
advances to `t` (log entry 5); a Timebase value is ahead when it lies less than half the range
ahead. -/
def State.reachTime (s : State) (t : Time) : State :=
  if (t - s.time).toNat < 2147483648 then { s with time := t } else s

/-- The stop-all set (R129): the lines that carry the role and are at their active level. -/
def State.stopAllSet (s : State) : List Line :=
  allLines.filter fun l => (s.line l).stopAll.isSome && (s.line l).filtered
/-- Some stop-all line is at its active level. -/
def State.stopLineActive (s : State) : Bool := !s.stopAllSet.isEmpty

/-- A signed 32-bit field of a record. -/
def word32 (v : Int) : Word := BitVec.ofInt 32 v

/-! ### The window -/

/-- An entry that is PENDING. -/
def Entry.isPending (e : Entry) : Bool :=
  match e.state with
  | .pending _ => true
  | .active _ => false

/-- The active segment of an axis, the head entry where it is ACTIVE (R4). -/
def Seq.activeEntry (q : Seq) : Option Entry :=
  match q.window with
  | e :: _ => if e.isPending then none else some e
  | [] => none

/-- The candidate of an axis without an active segment: the head entry where it is PENDING (R4). -/
def Seq.candidate (q : Seq) : Option Entry :=
  match q.window with
  | e :: _ => if e.isPending then some e else none
  | [] => none

/-- The homing state of an active HOME (R78). -/
def Seq.homing (q : Seq) : Option HomeState :=
  match q.activeEntry with
  | some e =>
    match e.state with
    | .active h => h
    | .pending _ => none
  | none => none

/-- A HOME segment is active. -/
def Seq.homeActive (q : Seq) : Bool := q.homing.isSome

/-- Change the state of the head entry. -/
def Seq.setHead (q : Seq) (st : EntryState) : Seq :=
  match q.window with
  | e :: rest => { q with window := { e with state := st } :: rest }
  | [] => q

/-- Return every PENDING entry to not armed (R97 step 4). -/
def Seq.disarm (q : Seq) : Seq :=
  { q with window := q.window.map fun e => if e.isPending then { e with state := .pending .notArmed } else e }

/-! ### Direction blocks -/

/-- A side is blocked while either of its components is set (R90). -/
def Seq.blocked (q : Seq) (positive : Bool) : Bool :=
  if positive then q.linePos || q.posPos else q.lineNeg || q.posNeg

/-- Set or clear the line component of a side (R91). -/
def Seq.setLineBlock (q : Seq) (positive value : Bool) : Seq :=
  if positive then { q with linePos := value } else { q with lineNeg := value }

/-- The limit line of a side. -/
def AxisConfig.limit (c : AxisConfig) (positive : Bool) : Option Line :=
  if positive then c.limitPos else c.limitNeg

/-- The filtered level of an optional line; a side without a line reads inactive (R91). -/
def State.levelOf (s : State) (l : Option Line) : Bool :=
  match l with
  | some l => (s.line l).filtered
  | none => false

/-- The test of the position component of the positive side (R92). -/
def beyondPos (c : AxisConfig) (p : Int) : Bool := (c.softLimits && c.hi < p) || p == posMax
/-- The test of the position component of the negative side (R92). -/
def beyondNeg (c : AxisConfig) (p : Int) : Bool := (c.softLimits && p < c.lo) || p == posMin

/-- Recompute both position components from the commanded position (R92, R85). -/
def State.recomputePosBlocks (s : State) (a : Axis) : State :=
  s.modSeq a fun q =>
    { q with posPos := beyondPos (s.cfg a) (s.mg a).pos, posNeg := beyondNeg (s.cfg a) (s.mg a).pos }

/-- Keep the position components at a change of position, outside an active HOME (R92). -/
def State.followPosBlocks (s : State) (a : Axis) : State :=
  if (s.seq a).homeActive then s else s.recomputePosBlocks a

/-- Recompute both line components from the filtered levels of the limit lines (R91). -/
def State.recomputeLineBlocks (s : State) (a : Axis) : State :=
  s.modSeq a fun q =>
    { q with lineNeg := s.levelOf (s.cfg a).limitNeg, linePos := s.levelOf (s.cfg a).limitPos }

/-! ### General outputs -/

/-- Apply a mask and a value to the general outputs (R74, R144). -/
def State.applyOut (s : State) (o : OutAction) : State :=
  { s with outs := (s.outs &&& ~~~o.mask) ||| (o.value &&& o.mask) }

end Sys2Proof.Machine
end

