-- ==== Sys2Proof/Machine/Flags.lean ====
section
/-! DEFINITION. Status codes and flags: the code tables of chapter 11, the interrupt moderator
(R161, R162), the fault record of STATUS (R172), the derived output lines (ENA, IRQ), and what a
read of each register returns (R182). -/

namespace Sys2Proof.Machine

/-! ### Codes of section 11.3 -/

/-- Halt reason codes 40h to 4Dh. -/
def HaltReason.code : HaltReason → Byte
  | .limitNeg => 0x40 | .limitPos => 0x41 | .softLimitNeg => 0x42 | .softLimitPos => 0x43
  | .following => 0x44 | .encoder => 0x45 | .host => 0x46 | .stopAll => 0x47 | .reject => 0x48
  | .underrun => 0x49 | .group => 0x4A | .homeFail => 0x4B | .bus => 0x4C | .drain => 0x4D

/-- A reason, or 0 for NONE. -/
def reasonCode : Option HaltReason → Byte
  | some r => r.code
  | none => 0

/-- Rejection codes 20h to 28h; BAD_FIELD carries 2. -/
def RejectReason.code : RejectReason → Byte
  | .badField => 2 | .noHomeLine => 0x20 | .positionRange => 0x21 | .bankEmpty => 0x22
  | .velocityLimit => 0x23 | .softLimitTarget => 0x24 | .directionBlocked => 0x25
  | .rdvClosed => 0x26 | .rdvNotMember => 0x27 | .rdvBroken => 0x28

/-- The statuses of a CMD_DONE (R139). -/
inductive CmdStatus where
  | ok | badCommand | badField | axisBusy | bankInUse | notHalted | entryBusy | unitBusy
  | lineActive | barrierHalted | draining
deriving DecidableEq, Repr

/-- Command status codes 0 to 10. -/
def CmdStatus.code : CmdStatus → Byte
  | .ok => 0 | .badCommand => 1 | .badField => 2 | .axisBusy => 3 | .bankInUse => 4
  | .notHalted => 5 | .entryBusy => 6 | .unitBusy => 7 | .lineActive => 8 | .barrierHalted => 9
  | .draining => 10

/-- SQ state codes. -/
def SqState.code : SqState → Byte
  | .off => 0 | .empty => 1 | .wait _ => 2 | .run => 3 | .halting => 4 | .halted => 5

/-- SQ_WAIT sub-cause codes. -/
def SqState.subCode : SqState → Byte
  | .wait .cond => 1
  | .wait .place => 2
  | _ => 0

/-- Motion state codes. -/
def MotionState.code : MotionState → Byte
  | .still => 0 | .accel => 1 | .cruise => 2 | .decel => 3 | .hold => 4 | .stopRamp => 5

/-- Rendezvous state codes. -/
def RdvState.code : RdvState → Byte
  | .closed => 0 | .opened => 1 | .broken => 2

/-- Capture unit state codes. -/
def CapUnit.code : CapUnit → Byte
  | .disarmed => 0 | .armed _ => 1 | .armedPending _ _ => 2 | .spentPending _ _ => 3

/-- Completion kind codes. -/
def CplKind.code : CplKind → Byte
  | .segDone => 1 | .segAborted => 2 | .segRejected => 3 | .cmdDone => 4 | .axisHalted => 5
  | .capture => 6 | .signalOverflow => 7 | .drainFlush => 8

/-- Device state codes (section 11.5). -/
def DevState.code : DevState → Byte
  | .off => 0 | .load => 1 | .run => 2 | .drain => 3 | .fault => 4

/-- Fault codes (section 11.5). -/
def FaultCode.code : FaultCode → Byte
  | .none => 0 | .setupVersion => 1 | .setupSize => 2 | .setupIndex => 3 | .setupAlign => 4
  | .setupOverlap => 5 | .setupIrq => 6 | .busRead => 0x10 | .busWrite => 0x11 | .postRange => 0x20

/-- Fault source codes (section 11.5). -/
def FaultSource.code : FaultSource → Byte
  | .none => 0xFF
  | .ring r => BitVec.ofNat 8 r.val
  | .cpl => 5 | .setup => 6 | .report => 7

/-- A flag as a word, 1 or 0. -/
def flagWord (b : Bool) : Word := if b then 1 else 0
/-- A flag as a byte, 1 or 0. -/
def flagByte (b : Bool) : Byte := if b then 1 else 0

/-! ### The interrupt moderator -/

/-- The moderator at the write completion of a record carrying NOTIFY (R161). -/
def Moderator.countNotify (m : Moderator) (now : Time) : Moderator :=
  let n := if m.count < 255 then m.count + 1 else m.count
  { m with
    count := n
    causeCount := m.causeCount || m.threshold ≤ n
    timer :=
      if m.holdoff != 0 && m.timer.isNone && !m.causeHoldoff then some (now + BitVec.ofNat 32 m.holdoff)
      else m.timer }

/-- An acknowledge: the causes named by bits 8 to 10 of a write to INTS (R162). -/
def Moderator.acknowledge (m : Moderator) (w : Word) : Moderator :=
  { m with
    count := 0, timer := none
    causeCount := m.causeCount && !w.getLsbD 8
    causeHoldoff := m.causeHoldoff && !w.getLsbD 9
    causeDevice := m.causeDevice && !w.getLsbD 10 }

/-- The holdoff timer expires (R161). -/
def Moderator.expire (m : Moderator) : Moderator := { m with causeHoldoff := true, timer := none }

/-- Count, timer, COUNT and HOLDOFF at the entry into DS_RUN, with the setup block's items (R161). -/
def Moderator.enter (m : Moderator) (threshold holdoff : Nat) : Moderator :=
  { count := 0, threshold := threshold, holdoff := holdoff, timer := none, causeCount := false,
    causeHoldoff := false, causeDevice := m.causeDevice }

/-- Soft reset of the moderator (R161, R177); threshold and holdoff are loaded anew at the next entry
into DS_RUN. -/
def Moderator.clear (m : Moderator) : Moderator :=
  { m with count := 0, timer := none, causeCount := false, causeHoldoff := false,
           causeDevice := false }

/-- The IRQ line (R161). -/
def Moderator.irq (m : Moderator) : Bool := m.causeCount || m.causeHoldoff || m.causeDevice

/-- The DSC sets the DEVICE cause (R161, R164, R174, R175). -/
def State.setDevice (s : State) : State :=
  { s with moderator := { s.moderator with causeDevice := true } }

/-- A recording of a fault replaces the code and source held before (R172). -/
def State.recordFault (s : State) (c : FaultCode) (src : FaultSource) : State :=
  { s with faultCode := c, faultSource := src }

/-! ### Derived lines and registers -/

/-- The ENA output of an axis (R118, R133), low while the RESET line is held (R134). -/
def State.ena (s : State) (a : Axis) : Bool :=
  (s.cfg a).enabled && !(s.fbm a).enaDropped && !s.resetHeld

/-- The DIR output of an axis (R53, R132). -/
def State.dirPin (s : State) (a : Axis) : Bool := (s.mg a).positive

/-- The level of a general output's pin (R131). -/
def State.outPin (s : State) (i : Fin 4) : Bool := s.outs.getLsbD i.val

/-- The IRQ line (R161). -/
def State.irq (s : State) : Bool := s.moderator.irq

/-- What a read of the register at an offset returns (R182, section 11.5). A read changes nothing. DESIGN
CHOICE (log entry 43): an offset below 20h that is no register's reads 0, as those from 20h on do. -/
def State.readReg (s : State) (offset : Word) : Word :=
  match offset.toNat with
  | 0x00 => Config.ident
  | 0x04 => flagWord s.enable
  | 0x08 => (s.dev.code.setWidth 32) ||| (s.faultCode.code.setWidth 32 <<< 8)
              ||| (s.faultSource.code.setWidth 32 <<< 16)
  | 0x0C => s.setupLo
  | 0x10 => s.setupHi
  | 0x14 => s.postReg
  | 0x18 => BitVec.ofNat 32 s.cpl.host
  | 0x1C => BitVec.ofNat 32 s.moderator.count ||| (flagWord s.moderator.causeCount <<< 8)
              ||| (flagWord s.moderator.causeHoldoff <<< 9)
              ||| (flagWord s.moderator.causeDevice <<< 10) ||| (flagWord s.irq <<< 16)
  | _ => 0

end Sys2Proof.Machine
end

