-- ==== Sys2Proof/Machine/Motion.lean ====
section
/-! DEFINITION. The Motion Generator on its own (chapter 3): the profile rules R54 to R57 over exact
quantities, the motion each segment kind and homing phase begins, the step, the end of a phase, and
the two stops. Velocities enter through their squares: over a ramp at rate `a` the square changes by
`2 a` for each step travelled, so the distances of R54 are exact rational numbers. -/

namespace Sys2Proof.Machine

/-- What the MG reports of a motion at an event (R52). `holds` is the case of R62: the end state of
the segment holds at its own start event. -/
inductive MgEvent where
  | none
  | targetReached
  | velocityReached
  | standstill
  | holds
deriving DecidableEq, Repr

/-- The square of a speed in steps per second. -/
def square (v : Nat) : Rat := ((v * v : Nat) : Rat)

/-- The whole part of the square root of `q`, for a speed below 2²¹. -/
def speedFloor (q : Rat) : Nat :=
  [20, 19, 18, 17, 16, 15, 14, 13, 12, 11, 10, 9, 8, 7, 6, 5, 4, 3, 2, 1, 0].foldl
    (fun r k => if square (r + 2 ^ k) ≤ q then r + 2 ^ k else r) 0

/-- The magnitude of a velocity in whole steps per second: exact where it is whole, and otherwise
rounded to one of its two neighbours, which the manual leaves open (log entry 7). -/
def speedWhole (q : Rat) : Nat :=
  if square (speedFloor q) = q then speedFloor q
  else if Config.speedRoundsUp q then speedFloor q + 1 else speedFloor q

/-- The velocity in whole steps per second, as records and answers carry it. -/
def MG.velocity (m : MG) : Int :=
  if m.positive then (speedWhole m.speedSq : Int) else -(speedWhole m.speedSq : Int)

/-- The velocity is 0: the state is MG_STILL (R51). -/
def MG.isStill (m : MG) : Bool := m.motion == .still

/-! ### Distances (R54) -/

/-- The distance of a change of speed between the squares `low` and `high` at a rate (R54). -/
def rampDistance (low high : Rat) (rate : Nat) : Rat := (high - low) / (2 * (rate : Rat))

/-- The distance of a descent to zero from the square `q`: down to vstop, 0 at or below it (R54). -/
def descentDistance (q : Rat) (vstop rate : Nat) : Rat :=
  if square vstop < q then rampDistance (square vstop) q rate else 0

/-- A distance rounded up to the next whole step (R54). -/
def wholeSteps (d : Rat) : Int := d.ceil

/-- The descent of the MG at its profile from the square `q`. -/
def MG.descentFrom (m : MG) (q : Rat) : Rat := descentDistance q m.profile.vstop m.profile.decel

/-- The stopping distance at the present speed (R54). -/
def MG.stopDistance (m : MG) : Rat := m.descentFrom m.speedSq

/-- The distance still to go to a position, in the direction of motion. -/
def MG.toGo (m : MG) (target : Int) : Rat :=
  (((if m.positive then target - m.pos else m.pos - target) : Int) : Rat) - m.frac

/-! ### Standing still and rising -/

/-- The velocity steps to 0 (R54); the distance travelled counts anew from the next rise (R53). -/
def MG.stand (m : MG) : MG := { m with speedSq := 0, frac := 0, motion := .still }

/-- The motion ends with the goal NONE. -/
def MG.clearGoal (m : MG) : MG := { m with goal := .none, reversing := false }

/-- The speed a rise from standstill toward `c` begins with (R54). -/
def MG.startSpeed (m : MG) (c : Nat) : Nat := min m.profile.vstart c

/-- Motion begins from standstill toward the speed `c` (R54, R53). -/
def MG.rise (m : MG) (positive : Bool) (c : Nat) : MG :=
  { m with positive := positive, speedSq := square (m.startSpeed c), frac := 0, motion := .accel,
           reversing := false, rate := m.profile.decel }

/-! ### Motion toward an end position (R55, R56) -/

/-- The final descent onto the end position is due: the distance still to go has come down to the
exact distance of the descent (R54). -/
def MG.descentDue (m : MG) (target : Int) : Bool :=
  square m.profile.vstop < m.speedSq && m.toGo target ≤ m.stopDistance

/-- The motion state of a motion toward an end position at its present point (R55, R56). In a
triangle the speed holds without MG_CRUISE where it has reached its peak before the descent is due
(log entry 18). -/
def MG.positionState (m : MG) (target : Int) : MotionState :=
  match m.form with
  | .flat => .cruise
  | .settle => .decel
  | .triangle => if m.descentDue target then .decel else .accel
  | .trapezoid =>
    if m.descentDue target then .decel
    else if square m.cruise < m.speedSq then .decel
    else if m.speedSq < square m.cruise then .accel
    else .cruise

/-- The form of a motion from the square `q` over `d` steps, by the rounded distances (R54, R55): a
trapezoid where the change to the cruise speed and the descent from it fit. DESIGN CHOICE (log entry 41):
with the cruise speed below the present one (R56) the form is always this one, and whether the cruise takes
place is decided by the exact distances, be it for part of a step. -/
def MG.formOver (m : MG) (q : Rat) (d : Int) : Form :=
  if d < wholeSteps (m.descentFrom q) then .flat
  else if square m.cruise < q then .trapezoid
  else if wholeSteps (rampDistance q (square m.cruise) m.profile.accel)
      + wholeSteps (m.descentFrom (square m.cruise)) ≤ d then .trapezoid
  else .triangle

/-- Plan a motion to an end position from standstill (R55), `target` being another position. -/
def MG.planFromStill (m : MG) (target : Int) : MG :=
  let m := { m.rise (m.pos < target) m.cruise with goal := .position target }
  let m := { m with form := m.formOver m.speedSq (target - m.pos).natAbs }
  { m with motion := m.positionState target }

/-- A descent to zero at a rate begins (R54): at or below vstop the velocity steps to 0 at once. The
flag says that it did. -/
def MG.descend (m : MG) (rate : Nat) : MG × Bool :=
  if m.speedSq ≤ square m.profile.vstop then ({ m.stand with rate := rate }, true)
  else ({ m with motion := .decel, rate := rate }, false)

/-- The second part of a reversal, at the event at which the velocity steps to 0 (R57): the rest of
the motion is planned from standstill toward the goal. -/
def MG.restart (m : MG) : MG × MgEvent :=
  let m := { m.stand with reversing := false }
  match m.goal with
  | .position e => if e = m.pos then (m, .targetReached) else (m.planFromStill e, .none)
  | .velocity r =>
    let m' := m.rise (0 < r) r.natAbs
    if r.natAbs ≤ m.profile.vstart then (m', .velocityReached) else (m', .none)
  | _ => (m, .standstill)

/-- The first part of a reversal (R57). -/
def MG.reverse (m : MG) : MG × MgEvent :=
  match m.descend m.profile.decel with
  | (m, true) => m.restart
  | (m, false) => ({ m with reversing := true }, .none)

/-! ### What each segment kind begins (R58 to R63) -/

/-- Start a MOVE toward `target` at the cruise speed `c` (R58): nothing where it stands there
already, from standstill by R55, moving on by R56 where the end position lies ahead at no less than
the stopping distance, and otherwise as a reversal (R57). -/
def MG.startMove (m : MG) (target : Int) (c : Nat) : MG × MgEvent :=
  let m := { m with goal := .position target, cruise := c, reversing := false,
                    rate := m.profile.decel }
  if target = m.pos then (m, .holds)
  else if m.isStill then (m.planFromStill target, .none)
  else
    let ahead : Bool := if m.positive then m.pos < target else target < m.pos
    let d : Int := (target - m.pos).natAbs
    if ahead && wholeSteps m.stopDistance ≤ d then
      let m := { m with form := m.formOver m.speedSq d }
      ({ m with motion := m.positionState target }, .none)
    else m.reverse

/-- Start a RUN toward the velocity `r` (R59). -/
def MG.startRun (m : MG) (r : Int) : MG × MgEvent :=
  let m := { m with goal := .velocity r, reversing := false }
  if m.isStill then
    if r = 0 then (m, .holds)
    else
      let m' := m.rise (0 < r) r.natAbs
      if r.natAbs ≤ m.profile.vstart then (m', .velocityReached) else (m', .none)
  else if r = 0 then
    match m.descend m.profile.decel with
    | (m, true) => (m, .standstill)
    | (m, false) => (m, .none)
  else if (0 < r : Bool) == m.positive then
    if square r.natAbs = m.speedSq then (m, .holds)
    else if m.speedSq < square r.natAbs then ({ m with motion := .accel }, .none)
    else ({ m with motion := .decel, rate := m.profile.decel }, .none)
  else m.reverse

/-- Begin a descent to zero toward standstill: a STOP (R60), and the descents of a HOME (R63, R80,
R82) at their own rates. -/
def MG.startStop (m : MG) (rate : Nat) : MG × MgEvent :=
  let m := { m with goal := .standstill, reversing := false }
  if m.isStill then (m, .holds)
  else
    match m.descend rate with
    | (m, true) => (m, .standstill)
    | (m, false) => (m, .none)

/-- Start a DWELL (R61): from MG_HOLD the state becomes MG_CRUISE. -/
def MG.startDwell (m : MG) (expiry : Time) : MG :=
  { m with goal := .dwell expiry, reversing := false,
           motion := if m.motion == .hold then .cruise else m.motion }

/-- A homing phase begins its motion from standstill toward a side (R80, R81, R82): a rise toward
the segment velocity and a cruise at it. -/
def MG.startSeek (m : MG) (positive : Bool) (c : Nat) : MG :=
  let m := m.rise positive c
  { m with goal := .velocity (if positive then (c : Int) else -(c : Int)), cruise := c,
           motion := if c ≤ m.profile.vstart then .cruise else .accel }

/-- SETTLE begins at the home edge (R83): the end position lies beyond the commanded position by the
stopping distance in whole steps, and the descent lands on it. At or below vstop the velocity steps
to 0 at once and the axis stands on its end position. -/
def MG.startSettle (m : MG) : MG × MgEvent :=
  let d := wholeSteps m.stopDistance
  let target := if m.positive then m.pos + d else m.pos - d
  let m := { m with goal := .position target, form := .settle, reversing := false, motion := .decel,
                    rate := m.profile.decel }
  if m.speedSq ≤ square m.profile.vstop then (m.stand, .targetReached) else (m, .none)

/-! ### Running a profile -/

/-- The distance from the present point to the next end of a phase that changes the motion state or
ends the motion, where there is one before the motion lands (R54 to R57, R59, R60, R68). -/
def MG.phaseEnd (m : MG) : Option Rat :=
  let w := square m.profile.vstop
  match m.motion with
  | .still | .hold => none
  | .stopRamp => some (rampDistance w m.speedSq m.rate)
  | .accel =>
    match m.goal with
    | .velocity r => some (rampDistance m.speedSq (square r.natAbs) m.profile.accel)
    | .position e =>
      let a : Rat := m.profile.accel
      let d : Rat := m.profile.decel
      -- where the rise meets the descent onto the end position
      let y := (2 * d * m.toGo e - m.speedSq + w) / (2 * (a + d))
      let peak := m.speedSq + 2 * a * y
      if peak ≤ square m.cruise then (if w < peak then some y else none)
      else if m.form = .triangle then
        (if w < square m.cruise then some (m.toGo e - m.descentFrom (square m.cruise)) else none)
      else some (rampDistance m.speedSq (square m.cruise) m.profile.accel)
    | _ => none
  | .cruise =>
    match m.goal with
    | .position e =>
      if m.form = .flat then none
      else if w < m.speedSq then some (m.toGo e - m.stopDistance) else none
    | _ => none
  | .decel =>
    if m.reversing then some (rampDistance w m.speedSq m.rate)
    else
      match m.goal with
      | .standstill => some (rampDistance w m.speedSq m.rate)
      | .velocity r =>
        if r = 0 then some (rampDistance w m.speedSq m.rate)
        else some (rampDistance (square r.natAbs) m.speedSq m.rate)
      | .position e =>
        if m.form = .settle || m.descentDue e || m.speedSq ≤ square m.cruise then none
        else some (rampDistance (square m.cruise) m.speedSq m.profile.decel)
      | _ => none

/-- The square of the speed after travelling `y` further within the present phase (R54). A descent
onto an end position holds its speed until it is due, and then lands with the square at vstop's. DESIGN
CHOICE (log entry 40): a MOVE begun in MG_HOLD between two steps may have less left to travel than the
exact descent, though D is at least the stopping distance (R56); then it descends at decel at once and
steps to 0 at the landing from above vstop. DESIGN CHOICE (log entry 45): the same holds for SETTLE, whose
end position lies the stopping distance in whole steps beyond P_h (R83), where the home edge is taken between
two steps. -/
def MG.speedAfter (m : MG) (y : Rat) : Rat :=
  let w := square m.profile.vstop
  match m.motion with
  | .still => 0
  | .hold | .cruise => m.speedSq
  | .stopRamp => m.speedSq - 2 * (m.rate : Rat) * y
  | .accel =>
    let q := m.speedSq + 2 * (m.profile.accel : Rat) * y
    match m.goal with
    | .position _ => if square m.cruise < q then square m.cruise else q
    | _ => q
  | .decel =>
    if m.reversing then m.speedSq - 2 * (m.rate : Rat) * y
    else
      match m.goal with
      | .position e =>
        let d : Rat := m.profile.decel
        let falling := m.speedSq - 2 * d * y
        if m.form = .settle || m.descentDue e then
          if m.stopDistance ≤ m.toGo e then min m.speedSq (w + 2 * d * (m.toGo e - y)) else falling
        else falling
      | _ => m.speedSq - 2 * (m.rate : Rat) * y

/-- Travel `y` further within the present phase, without a step. -/
def MG.travel (m : MG) (y : Rat) : MG :=
  { m with speedSq := m.speedAfter y, frac := m.frac + y }

/-- What stands at the end of a phase (R54 to R60, R68). -/
def MG.endPhase (m : MG) : MG × MgEvent :=
  match m.motion with
  | .stopRamp => (m.stand, .standstill)
  | .decel =>
    if m.reversing then m.restart
    else
      match m.goal with
      | .velocity r =>
        if r = 0 then (m.stand, .standstill)
        else ({ m with speedSq := square r.natAbs }, .velocityReached)
      | .position e => ({ m with motion := m.positionState e }, .none)
      | _ => (m.stand, .standstill)
  | .accel =>
    match m.goal with
    | .velocity r => ({ m with speedSq := square r.natAbs }, .velocityReached)
    | .position e => ({ m with motion := m.positionState e }, .none)
    | _ => (m, .none)
  | .cruise =>
    match m.goal with
    | .position e => ({ m with motion := m.positionState e }, .none)
    | _ => (m, .none)
  | .still | .hold => (m, .none)

/-- The next event of a moving MG is the end of a phase between steps (R53, R54). -/
def MG.phaseEndNext (m : MG) : Bool :=
  match m.phaseEnd with
  | some y => y < 1 - m.frac
  | none => false

/-- The next event of the MG is a step. -/
def MG.stepNext (m : MG) : Bool := !m.isStill && !m.phaseEndNext

/-- The motion lands on its end position with the step to `m.pos` (R55). -/
def MG.landed (m : MG) : Bool :=
  match m.goal with
  | .position e => !m.reversing && e == m.pos
  | _ => false

/-- One step of the commanded position (R53) and what it brings the MG to: the landing of R55, or the
end of a phase that falls on the step. -/
def MG.step (m : MG) : MG × MgEvent :=
  let y := 1 - m.frac
  let onStep : Bool := m.phaseEnd == some y
  let m := m.travel y
  let m := { m with frac := 0, pulses := m.pulses + 1,
                    pos := if m.positive then m.pos + 1 else m.pos - 1 }
  if m.landed then (m.stand, .targetReached)
  else if onStep then m.endPhase
  else (m, .none)

/-- The end of a phase between steps (R54). -/
def MG.endPhaseNow (m : MG) : MG × MgEvent :=
  match m.phaseEnd with
  | some y => (m.travel y).endPhase
  | none => (m, .none)

/-- The motion of one microsecond, up to the next event of the MG at the most (log entry 6): the
point moves along the profile, and no step is taken and no phase ends. -/
def MG.creep (m : MG) : MG :=
  if m.isStill then m
  else
    let v : Rat := speedFloor m.speedSq
    let dv : Rat :=
      match m.motion with
      | .accel => (m.profile.accel : Rat)
      | .decel | .stopRamp => -(m.rate : Rat)
      | _ => 0
    let y := max 0 (v / 1000000 + dv / 2000000000000)
    let y := min y (max 0 (1 - m.frac))
    let y := match m.phaseEnd with
      | some z => min y (max 0 z)
      | none => y
    m.travel y

/-! ### Stops (R68, R69) -/

/-- A soft stop request (R68). -/
def MG.softStop (m : MG) (stopDecel : Nat) : MG :=
  let m := m.clearGoal
  match m.motion with
  | .still | .stopRamp => m
  | _ =>
    if m.speedSq ≤ square m.profile.vstop then m.stand
    else { m with motion := .stopRamp, rate := stopDecel }

/-- A hard stop request (R69). -/
def MG.hardStop (m : MG) : MG := m.clearGoal.stand

/-- The stop of a stop kind. -/
def MG.stop (m : MG) (k : StopKind) (stopDecel : Nat) : MG :=
  match k with
  | .soft => m.softStop stopDecel
  | .hard => m.hardStop

/-! ### Watchers (R29, R30) -/

/-- The test of a watcher at a position (R29). -/
def Watcher.holds (w : Watcher) (p : Int) : Bool :=
  if w.up then w.threshold ≤ p else p ≤ w.threshold

end Sys2Proof.Machine
end

