-- ==== Sys2Proof/Machine/Completion.lean ====
section
/-! DEFINITION. The Completion Unit (chapter 9): places, the owed list and its placements, the
completion records, the writing of CPL; and the two transfers of the Ring Fetch Unit that the other
blocks begin, the consumer report and the fetch (R7, R167, R168). -/

namespace Sys2Proof.Machine

/-! ### Places (R152, R153) -/

/-- The number of places of the holding queue. -/
def placeCount : Nat := 8

/-- The occupied and reserved places. -/
def Queue.held (q : Queue) : Nat :=
  q.reserved.length + q.filled.length + (if q.writing.isSome then 1 else 0)

/-- The FREE places. -/
def Queue.free (q : Queue) : Nat := placeCount - q.held

/-- Reserve a FREE place for a holder (R153). -/
def State.reserve (s : State) (h : Holder) : State :=
  if 0 < s.queue.free then { s with queue := { s.queue with reserved := s.queue.reserved ++ [h] } }
  else s

/-- Fill the place reserved for a holder (R153): it joins the tail of the write order. -/
def State.fill (s : State) (h : Holder) (c : Completion) : State :=
  if h ∈ s.queue.reserved then
    { s with queue := { s.queue with
        reserved := s.queue.reserved.erase h, filled := s.queue.filled ++ [c] } }
  else s

/-- Return a reserved place unused (R153). -/
def State.returnPlace (s : State) (h : Holder) : State :=
  { s with queue := { s.queue with reserved := s.queue.reserved.erase h } }

/-- Place a record into a FREE place (R154): it joins the tail of the write order. -/
def State.placeRecord (s : State) (c : Completion) : State :=
  if 0 < s.queue.free then { s with queue := { s.queue with filled := s.queue.filled ++ [c] } } else s

/-! ### Records -/

/-- The ring number of an axis in a record. -/
def ringByte (a : Axis) : Byte := BitVec.ofNat 8 a.val

/-- SEG_DONE (R64, R88). -/
def segDone (s : State) (a : Axis) (e : Entry) (aux : Int) : Completion :=
  { kind := .segDone, ring := ringByte a, seq := e.seq, tag := e.seg.tag, status := CmdStatus.ok.code,
    second := 0, pos := word32 (s.mg a).pos, aux := word32 aux, time := s.time,
    notify := e.seg.notify }

/-- SEG_ABORTED (R98), with the position and the velocity at the halt event. -/
def segAborted (s : State) (a : Axis) (e : Entry) (r : HaltReason) : Completion :=
  { kind := .segAborted, ring := ringByte a, seq := e.seq, tag := e.seg.tag, status := r.code,
    second := 0, pos := word32 (s.mg a).pos, aux := word32 (s.mg a).velocity, time := s.time,
    notify := true }

/-- SEG_REJECTED (R19). -/
def segRejected (s : State) (a : Axis) (e : Entry) (r : RejectReason) : Completion :=
  { kind := .segRejected, ring := ringByte a, seq := e.seq, tag := e.seg.tag, status := r.code,
    second := 0, pos := word32 (s.mg a).pos, aux := word32 (s.mg a).velocity, time := s.time,
    notify := e.seg.notify }

/-- What a command's rule gives its CMD_DONE: status, answer byte and the two answer words (R139). -/
structure Answer where
  status : CmdStatus
  byte   : Byte
  first  : Word
  second : Word
deriving DecidableEq, Repr

/-- CMD_DONE (R139). -/
def cmdDone (s : State) (seq tag : BitVec 16) (notify : Bool) (a : Answer) : Completion :=
  { kind := .cmdDone, ring := 4, seq := seq, tag := tag, status := a.status.code, second := a.byte,
    pos := a.first, aux := a.second, time := s.time, notify := notify }

/-- The CAPTURE record of a pending capture (R122). -/
def captureRecord (u : UnitNo) (c : CapConfig) (p : CapPending) : Completion :=
  { kind := .capture, ring := ringByte c.axis, seq := BitVec.ofNat 16 p.missed,
    tag := BitVec.ofNat 16 u.val, status := if p.rise then 0x60 else 0x61, second := 0,
    pos := word32 p.pos, aux := p.count, time := p.time, notify := true }

/-- The record of an owed notice, built from what its source has recorded (R34, R99, R122, R151).
A CAPTURE whose unit holds no pending capture has none. -/
def noticeRecord (s : State) : Owed → Option Completion
  | .axisHalted a r second pos vel time =>
    some { kind := .axisHalted, ring := ringByte a, seq := 0, tag := 0, status := r.code,
           second := reasonCode second, pos := pos, aux := vel, time := time, notify := true }
  | .capture u =>
    match s.cap u with
    | .armedPending c p | .spentPending c p => some (captureRecord u c p)
    | _ => none
  | .signalOverflow =>
    some { kind := .signalOverflow, ring := 0, seq := 0, tag := 0, status := 0, second := 0, pos := 0,
           aux := s.overflowMask.setWidth 32, time := s.overflowTime, notify := true }
  | .drainFlush a count first time =>
    some { kind := .drainFlush, ring := ringByte a, seq := 0, tag := 0, status := 0, second := 0,
           pos := BitVec.ofNat 32 count, aux := first.setWidth 32, time := time, notify := true }

/-- What the source of a notice becomes at the placement: a capture unit is armed again or disarmed
(R122, R124), the overflow mask is emptied (R34). -/
def sourcePlaced (s : State) : Owed → State
  | .capture u =>
    match s.cap u with
    | .armedPending c _ => s.setCap u (if s.dev = .drain then .disarmed else .armed c)
    | .spentPending _ _ => s.setCap u .disarmed
    | _ => s
  | .signalOverflow => { s with overflowMask := 0 }
  | .axisHalted _ _ _ _ _ _ | .drainFlush _ _ _ _ => s

/-! ### The owed list (R154) -/

/-- Place the first owed notice into a FREE place (R154, R155). -/
def State.placeFirstOwed (s : State) : State :=
  match s.owed with
  | [] => s
  | o :: rest =>
    let s' := { s with owed := rest }
    match noticeRecord s o with
    | some c => sourcePlaced (s'.placeRecord c) o
    | none => s'

/-- Place owed notices while there are FREE places, at most `n` of them. -/
def serveOwedUpTo : Nat → State → State
  | 0, s => s
  | n + 1, s =>
    if s.active && 0 < s.queue.free && !s.owed.isEmpty then serveOwedUpTo n s.placeFirstOwed else s

/-- The arbiter's first class, served whenever an entry joins the owed list (R155, R156). -/
def State.serveOwed (s : State) : State := serveOwedUpTo s.owed.length s

/-- A notice becomes owed: it joins the tail of the owed list, and the arbiter serves. -/
def State.owe (s : State) (o : Owed) : State := { s with owed := s.owed ++ [o] }.serveOwed

/-- The owed AXIS_HALTED notice of an axis takes a second reason where it has none (R99, R104). -/
def addSecond (a : Axis) (r : HaltReason) : Owed → Owed
  | .axisHalted b r' none pos vel time =>
    if a = b then .axisHalted b r' (some r) pos vel time else .axisHalted b r' none pos vel time
  | o => o

/-- The entry is the AXIS_HALTED notice of an axis. -/
def isHaltNotice (a : Axis) : Owed → Bool
  | .axisHalted b _ _ _ _ _ => a == b
  | _ => false

/-- Record a further reason in an owed AXIS_HALTED notice of the axis, if there is one (R104). -/
def State.secondReason (s : State) (a : Axis) (r : HaltReason) : State :=
  { s with owed := s.owed.map (addSecond a r) }

/-- A halt event without an active segment makes an AXIS_HALTED owed, or adds to the one still owed
(R99). Position, velocity and time are those of `s`. -/
def State.oweHalted (s : State) (a : Axis) (r : HaltReason) (pos vel : Int) : State :=
  if s.owed.any (isHaltNotice a) then s.secondReason a r
  else s.owe (.axisHalted a r none (word32 pos) (word32 vel) s.time)

/-! ### Writing CPL (R157, R158, R181) -/

/-- The records outstanding (R157). -/
def CplRing.outstanding (c : CplRing) : Nat := (c.prod + 2 * c.size - c.host) % (2 * c.size)

/-- The phase of the lap (R158). -/
def CplRing.phase (c : CplRing) : Bool := c.prod < c.size

/-- The 32 bytes of a completion record with its phase (section 11.3, R181). -/
def Completion.bytes (c : Completion) (phase : Bool) : Record :=
  c.kind.code.setWidth 256 ||| (c.ring.setWidth 256 <<< 8) ||| (c.seq.setWidth 256 <<< 16)
    ||| (c.tag.setWidth 256 <<< 32) ||| (c.status.setWidth 256 <<< 48)
    ||| (c.second.setWidth 256 <<< 56) ||| (c.pos.setWidth 256 <<< 64)
    ||| (c.aux.setWidth 256 <<< 96) ||| (c.time.setWidth 256 <<< 128)
    ||| ((flagByte c.notify).setWidth 256 <<< 160) ||| ((flagByte phase).setWidth 256 <<< 248)

/-- The write on the bus-master port while a place is WRITING: the address of the slot of the
producer index, and the record's bytes (R157, R163, R181). In DS_FAULT a place that stays WRITING is frozen
and no transfer is at the port (R159, R175). -/
def State.cplPort (s : State) : Option (BitVec 64 × Record) :=
  if s.active then
    s.queue.writing.map fun c =>
      (s.cpl.base + BitVec.ofNat 64 (32 * (s.cpl.prod % s.cpl.size)), c.bytes s.cpl.phase)
  else none

/-- Begin a CPL write where its conditions hold (R157). -/
def State.beginCplWrite (s : State) : State :=
  match s.queue.writing, s.queue.filled with
  | none, c :: rest =>
    if s.active && s.cpl.outstanding < s.cpl.size then
      { s with queue := { s.queue with filled := rest, writing := some c } }
    else s
  | _, _ => s

/-- The write completion (R157): the place becomes FREE, the producer index advances, and a record
carrying NOTIFY is counted. -/
def State.completeCplWrite (s : State) : State :=
  match s.queue.writing with
  | some c =>
    { s with
      queue := { s.queue with writing := none }
      cpl := { s.cpl with prod := (s.cpl.prod + 1) % (2 * s.cpl.size) }
      moderator := if c.notify then s.moderator.countNotify s.time else s.moderator }
  | none => s

/-! ### Consumer reports (R168) -/

/-- The present report word of a ring: consumer index and next sequence number (section 11.4). -/
def Ring.word (r : Ring) : Word := (BitVec.ofNat 16 r.cons).setWidth 32 ||| (r.seqNo.setWidth 32 <<< 16)

/-- A report becomes due (R168). -/
def Ring.dueReport (r : Ring) : Ring :=
  match r.report with
  | .idle => { r with report := .writing r.word false }
  | .writing w _ => { r with report := .writing w true }

/-- A report write completes (R168). -/
def Ring.completeReport (r : Ring) : Ring :=
  match r.report with
  | .writing _ true => { r with report := .writing r.word false }
  | _ => { r with report := .idle }

/-- The report write of a ring on the bus-master port: address and word (R168, section 11.4). -/
def State.reportPort (s : State) (r : RingNo) : Option (BitVec 64 × Word) :=
  match (s.ring r).report with
  | .writing w _ => some (s.reportAddr + BitVec.ofNat 64 (4 * r.val), w)
  | .idle => none

/-! ### Submission rings (R167) -/

/-- The number of records from one index to another, counted forward around a ring. -/
def ringDist (size a b : Nat) : Nat := (b + size - a) % size

/-- The records from the consumer index up to the producer index. -/
def Ring.available (r : Ring) : Nat := ringDist r.size r.cons r.prod

/-- The consumer index passes `n` records at one event: each takes the next sequence number, and a
report is due (R3, R167). -/
def Ring.pass (r : Ring) (n : Nat) : Ring :=
  if n = 0 then r
  else { r with cons := (r.cons + n) % r.size, seqNo := r.seqNo + BitVec.ofNat 16 n }.dueReport

/-- The slot a fetch of the ring reads (R163, R167). -/
def Ring.slotAddress (r : Ring) : BitVec 64 := r.base + BitVec.ofNat 64 (32 * r.cons)

/-- The RFU may begin a fetch on an axis ring (R7). -/
def State.mayFetch (s : State) (a : Axis) : Bool :=
  let r := s.ring (axisRing a)
  s.dev == .run
    && (match (s.seq a).sq with
        | .empty | .wait _ | .run => true
        | _ => false)
    && r.fetch == .idle && (s.seq a).window.length < 4 && r.prod != r.cons

/-- Begin a fetch on an axis ring where R7 allows. -/
def State.beginFetch (a : Axis) (s : State) : State :=
  if s.mayFetch a then s.modRing (axisRing a) fun r => { r with fetch := .inFlight } else s

/-! ### The Control Engine's claim and end (R136) -/

/-- The CTE hands the arbiter its claim (R136 step 1). -/
def State.cteClaim (s : State) : State :=
  if s.cte = .idle && s.dev == .run && (s.ring ctl).prod != (s.ring ctl).cons then
    { s with cte := .claim }
  else s

/-- A command ends: its CMD_DONE fills the reserved place and the CTE is idle (R136, R139). -/
def State.endCommand (s : State) (seq tag : BitVec 16) (notify : Bool) (a : Answer) : State :=
  { s.fill .cte (cmdDone s seq tag notify a) with cte := .idle }

/-! ### BARRIER (R146, R147) -/

/-- A named axis is satisfied (R146). -/
def State.barrierSatisfied (s : State) (b : BarrierRec) (a : Axis) : Bool :=
  match (s.seq a).sq with
  | .off => true
  | .empty =>
    ((s.mg a).motion == .still || (s.mg a).motion == .hold) && b.counts.get a == 0
  | _ => false

/-- The axis is SQ_HALTING or SQ_HALTED. -/
def State.isHalted (s : State) (a : Axis) : Bool :=
  (s.seq a).sq == .halting || (s.seq a).sq == .halted

/-- The answer of a BARRIER that ends now (R147). -/
def State.barrierAnswer (s : State) (b : BarrierRec) (st : CmdStatus) (byte : Byte) : Answer :=
  { status := st, byte := byte
    first := (axisSet fun a => inSet a b.axes && !s.barrierSatisfied b a).setWidth 32
    second := (axisSet fun a => inSet a b.axes && s.isHalted a).setWidth 32 }

/-- End a waiting BARRIER (R147). -/
def State.endBarrier (s : State) (b : BarrierRec) (st : CmdStatus) (byte : Byte) : State :=
  s.endCommand b.seq b.tag b.notify (s.barrierAnswer b st byte)

/-- The waiting BARRIER ends where a halt event of any reason but DRAIN has been taken on a named
axis (R147). -/
def State.barrierHalt (s : State) (a : Axis) (r : HaltReason) : State :=
  match s.cte with
  | .barrier b =>
    if inSet a b.axes && r != .drain then s.endBarrier b .barrierHalted (ringByte a) else s
  | _ => s

/-- The CTE judges a waiting BARRIER (R146). -/
def State.judgeBarrier (s : State) : State :=
  match s.cte with
  | .barrier b =>
    if (members b.axes).all (s.barrierSatisfied b) then s.endBarrier b .ok 0xFF else s
  | _ => s

/-- The consumer index of an axis ring has passed one record: the barrier count of the axis falls,
but not for a record that was in flight at the execution (R146). -/
def State.barrierPass (s : State) (a : Axis) : State :=
  match s.cte with
  | .barrier b =>
    let b' :=
      if b.skip.get a then { b with skip := setAt b.skip a false }
      else { b with counts := setAt b.counts a (b.counts.get a - 1) }
    { s with cte := .barrier b' }
  | _ => s

end Sys2Proof.Machine
end

