-- ==== Sys2Proof/Machine/Halting.lean ====
section
/-! DEFINITION. What the sequencers share: claims (R15), the Signal Board (R32 to R37), watchers
(R30), the halt event and further causes (R97 to R104), the breaking of rendezvous entries (R46,
R47), and the Feedback Monitor's test with its fault events (R114 to R118). -/

namespace Sys2Proof.Machine

/-! ### Claims (R15, R155) -/

/-- A claim joins the tail of the resolution claims. -/
def State.addClaim (s : State) (c : Claim) : State := { s with claims := s.claims ++ [c] }
/-- A claim is withdrawn unserved. -/
def State.dropClaim (s : State) (c : Claim) : State := { s with claims := s.claims.filter (· != c) }

/-- Record the progress of the candidate (R4). -/
def State.setProgress (s : State) (a : Axis) (p : Progress) : State :=
  s.modSeq a fun q => q.setHead (.pending p)

/-- The candidate waits on its condition: SQ_WAIT/COND (R14). -/
def State.waitCond (s : State) (a : Axis) : State := (s.setProgress a .waitCond).setSq a (.wait .cond)

/-- The candidate's condition is met: it claims a place to start (R15). -/
def State.claimStart (s : State) (a : Axis) : State :=
  ((s.setProgress a .waitStart).setSq a (.wait .place)).addClaim (.axis a)

/-- A check has failed: the candidate claims a place to be rejected (R15). -/
def State.claimReject (s : State) (a : Axis) (r : RejectReason) : State :=
  ((s.setProgress a (.waitReject r)).setSq a (.wait .place)).addClaim (.axis a)

/-- The candidate of an axis that waits on its condition has it met, and claims its place (R25). -/
def State.meet (s : State) (a : Axis) : State :=
  if (s.seq a).sq = .wait .cond then s.claimStart a else s

/-! ### The Signal Board -/

/-- Judge the head waiter of a signal (R36). -/
def State.judgeHead (s : State) (n : SignalNo) : State :=
  match (s.signal n).waiters with
  | a :: _ => if 0 < (s.signal n).count then s.meet a else s
  | [] => s

/-- A saturated post adds to the overflow mask; the first one after the mask was emptied makes a
SIGNAL_OVERFLOW notice owed (R34). -/
def State.overflow (s : State) (n : SignalNo) : State :=
  if s.overflowMask = 0 then
    { s with overflowMask := 1#16 <<< n.val, overflowTime := s.time }.owe .signalOverflow
  else { s with overflowMask := s.overflowMask ||| (1#16 <<< n.val) }

/-- The largest count of a signal (R32). -/
def signalMax : Nat := 15

/-- Post `k` to a signal (R33). -/
def State.postSignal (s : State) (n : SignalNo) (k : Nat) : State :=
  let sum := (s.signal n).count + k
  let s := s.modSignal n fun x => { x with count := min sum signalMax }
  let s := if signalMax < sum then s.overflow n else s
  s.judgeHead n

/-- The axis leaves the waiter list of a signal, in which it stands at most once; where it was the head, the
next is judged (R35, R36). -/
def State.leaveList (a : Axis) (n : SignalNo) (s : State) : State :=
  if a ∈ (s.signal n).waiters then
    let head := (s.signal n).waiters.head? == some a
    let s := s.modSignal n fun x => { x with waiters := x.waiters.filter (· != a) }
    if head then s.judgeHead n else s
  else s

/-- The axis leaves any waiter list it stands in. -/
def State.leaveWaiters (s : State) (a : Axis) : State := forEach allSignals (State.leaveList a) s

/-! ### Watchers (R30) -/

/-- Place or remove the watcher of axis `b` at the MG of axis `w`. -/
def State.setWatcher (s : State) (w b : Axis) (x : Option Watcher) : State :=
  s.modMg w fun m => { m with watchers := setAt m.watchers b x }

/-- Remove the watchers of axis `b` from every MG. -/
def State.removeWatchers (s : State) (b : Axis) : State :=
  forEach allAxes (fun w s => s.setWatcher w b none) s

/-- Serve the watcher of axis `b` at the MG of axis `w`, if its test holds (R30). -/
def State.serveWatcher (w b : Axis) (s : State) : State :=
  match (s.mg w).watchers.get b with
  | some x => if x.holds (s.mg w).pos then (s.setWatcher w b none).meet b else s
  | none => s

/-- Test the watcher set of an axis against its commanded position (R30, R71, R73). -/
def State.serveWatchers (s : State) (w : Axis) : State := forEach allAxes (State.serveWatcher w) s

/-! ### The halt event (R97) -/

/-- Remove the head entry of a window. -/
def State.removeHead (s : State) (a : Axis) : State :=
  s.modSeq a fun q => { q with window := q.window.tail }

/-- Step 3 of R97: the active segment is aborted into its reserved place, or an AXIS_HALTED becomes
owed. An aborted HOME ends the suspension of the soft limits (R85). `s₀` is the state at which the
cause is taken, with the position and the velocity the records carry. -/
def State.abortOrOwe (s s₀ : State) (a : Axis) (r : HaltReason) : State :=
  match (s₀.seq a).activeEntry with
  | some e =>
    let s := (s.fill (.axis a) (segAborted s₀ a e r)).removeHead a
    if (s₀.seq a).homeActive then s.recomputePosBlocks a else s
  | none => s.oweHalted a r (s₀.mg a).pos (s₀.mg a).velocity

/-- The withdrawals of R97 step 4 apart from the rendezvous: claim, waiter list, watcher, and the
progress of the candidate. -/
def State.withdraw (s : State) (a : Axis) : State :=
  (((s.dropClaim (.axis a)).leaveWaiters a).removeWatchers a).modSeq a Seq.disarm

/-- A member halts, or its window is discarded by CONFIG_AXIS (R46): its arrival is withdrawn, and an
entry that held another arrival breaks. The axes removed from broken entries are returned as one set, to
halt with GROUP at one step (R154). -/
def State.breakFor (s : State) (a : Axis) : State × BitVec 4 :=
  allEntries.foldl
    (fun (p : State × BitVec 4) e =>
      let r := p.1.entry e
      if r.state == .opened && inSet a r.members && r.arrived != 0 then
        let rest := r.arrived &&& ~~~axisBit a
        let s := p.1.dropClaim (.fire e)
        if rest = 0 then (s.modEntry e fun x => { x with arrived := 0 }, p.2)
        else (s.modEntry e fun x => { x with state := .broken, arrived := 0 }, p.2 ||| rest)
      else p)
    (s, 0)

/-- A common cause halts a set of axes: every entry whose arrived set holds one of them becomes
BROKEN, with no GROUP halts (R47). -/
def State.breakCommon (s : State) (halted : BitVec 4) : State :=
  forEach allEntries
    (fun e s =>
      if (s.entry e).arrived &&& halted = 0 then s
      else (s.dropClaim (.fire e)).modEntry e fun x => { x with state := .broken, arrived := 0 }) s

/-- A halt event (R97), taken at an axis in SQ_EMPTY, SQ_WAIT or SQ_RUN. `common` marks a cause that
halts several axes at once, for which the entries have been treated already (R47, R48). The first
argument bounds the chain of GROUP halts that follow one another (R46): each halts an axis that had
arrived, so the four axes bound it (log entry 26). The removed axes halt in ascending axis number, each with
its whole halt event (R154, log entry 17). -/
def haltEvent : Nat → Axis → HaltReason → StopKind → Bool → State → State
  | 0, _, _, _, _, s => s
  | n + 1, a, r, k, common, s₀ =>
    let s := s₀.modSeq a fun q => { q with reason := some r }
    let s := s.modMg a fun m => m.stop k (s₀.cfg a).stopDecel
    let s := s.abortOrOwe s₀ a r
    let s := s.withdraw a
    let p := if common then (s, 0) else s.breakFor a
    let s := p.1.setSq a (if (p.1.mg a).isStill then .halted else .halting)
    let s := s.barrierHalt a r
    (members p.2).foldl (fun s b => haltEvent n b .group .soft false s) s

/-- The bound of a chain of halt events. -/
def haltDepth : Nat := 5

/-- A further cause (R104): a hard one ends the stop ramp, and the reason goes into an owed
AXIS_HALTED notice. -/
def State.furtherCause (s : State) (a : Axis) (r : HaltReason) (k : StopKind) : State :=
  let s := s.secondReason a r
  match k with
  | .hard => (s.modMg a MG.hardStop).setSq a .halted
  | .soft => s

/-- A halt cause (R97, R104): a halt event, a further cause, or nothing, by the sequencer state. -/
def State.haltCause (s : State) (a : Axis) (r : HaltReason) (k : StopKind) (common : Bool) : State :=
  match (s.seq a).sq with
  | .empty | .wait _ | .run => haltEvent haltDepth a r k common s
  | .halting => s.furtherCause a r k
  | .halted | .off => s

/-- The axes that take a halt event at a cause that reaches every enabled axis (R47). -/
def State.liveAxes (s : State) : BitVec 4 :=
  axisSet fun a =>
    match (s.seq a).sq with
    | .empty | .wait _ | .run => true
    | _ => false

/-- A cause that reaches every enabled axis: STOP_ALL and BUS (R47, R109, R175). -/
def State.haltAll (s : State) (r : HaltReason) (k : StopKind) : State :=
  forEach allAxes (fun a s => s.haltCause a r k true) (s.breakCommon s.liveAxes)

/-- A STOP_ALL request (R109). -/
def State.stopAllRequest (s : State) (k : StopKind) : State :=
  if s.supervised then s.haltAll .stopAll k else s

/-! ### The Feedback Monitor (R111 to R118) -/

/-- The scaled count (R114), truncated toward zero. -/
def scaledCount (count : Word) (num den : Nat) : Int := (count.toInt * (num : Int)).tdiv (den : Int)

/-- The deviation of an axis (R114). -/
def State.deviation (s : State) (a : Axis) : Int :=
  (s.mg a).pos - (s.fbm a).ref - scaledCount (s.fbm a).count (s.cfg a).encNum (s.cfg a).encDen

/-- Set the reference so that the deviation is 0 and arm the monitor (R114). -/
def State.rebase (s : State) (a : Axis) : State :=
  s.modFbm a fun f =>
    { f with
      ref := (s.mg a).pos - scaledCount f.count (s.cfg a).encNum (s.cfg a).encDen
      tripped := false }

/-- The axis is monitored: not SQ_OFF, tolerance above 0, in a supervised device state (R114, R117). -/
def State.monitored (s : State) (a : Axis) : Bool :=
  (s.seq a).sq != .off && 0 < (s.cfg a).tolerance && s.supervised

/-- A FOLLOWING or ENCODER event taken at the SEQ (R116), with its effect on ENA (R118). -/
def State.takeFault (s : State) (a : Axis) (r : HaltReason) (k : StopKind) : State :=
  let s :=
    if (s.cfg a).disableOnFault && (s.seq a).sq != .off then
      s.modFbm a fun f => { f with enaDropped := true }
    else s
  s.haltCause a r k false

/-- The deviation is beyond the tolerance. -/
def State.beyondTolerance (s : State) (a : Axis) : Bool := (s.cfg a).tolerance < (s.deviation a).natAbs

/-- The monitor's state after a test, and whether FOLLOWING is raised (R115). -/
def State.judgeDeviation (s : State) (a : Axis) : State × Bool :=
  if s.monitored a then
    (s.modFbm a fun f => { f with tripped := s.beyondTolerance a },
     s.beyondTolerance a && !(s.fbm a).tripped)
  else (s, false)

/-- A test of the deviation (R114, R115). -/
def State.testDeviation (s : State) (a : Axis) : State :=
  let p := s.judgeDeviation a
  if p.2 then p.1.takeFault a .following (p.1.cfg a).faultAction else p.1

/-- The commanded position is set without a step (R73): watchers, feedback reference and position
components follow, in the order of R84 and R145. -/
def State.setPosition (s : State) (a : Axis) (p : Int) : State :=
  let s := s.modMg a fun m => { m with pos := p }
  ((s.serveWatchers a).rebase a).recomputePosBlocks a

end Sys2Proof.Machine
end

