-- ==== Sys2Proof/Machine/Sequencer.lean ====
section
/-! DEFINITION. The Axis Sequencer: arming and the start conditions (R12 to R14, R26 to R31, R35, R43),
the completion event (R64, R66), the homing run (chapter 4), what the MG's events bring (R52), the
grants to a candidate and to a fire (R16, R17, R19, R45), and the discard of a window (R23). -/

namespace Sys2Proof.Machine

/-! ### The checks of R13 -/

/-- The resulting target of a MOVE from a position (check 4 of R13). -/
def Work.target (w : Work) (pos : Int) : Option Int :=
  match w with
  | .moveAbs t _ => some t
  | .moveRel d _ => some (pos + d)
  | _ => none

/-- The speed that check 3 of R13 holds within vmax. -/
def Work.speed (w : Work) : Nat :=
  match w with
  | .moveAbs _ v | .moveRel _ v | .home _ v _ _ => v
  | .run r _ => r.natAbs
  | .stop | .dwell _ | .mark => 0

/-- A kind that uses a bank (R5, R75). -/
def Work.usesBank (w : Work) : Bool :=
  match w with
  | .moveAbs _ _ | .moveRel _ _ | .run _ _ | .stop | .home _ _ _ _ => true
  | .dwell _ | .mark => false

/-- The home line of the axis is at its active filtered level. -/
def State.homeActive (s : State) (a : Axis) : Bool := s.levelOf (s.cfg a).homeLine

/-- The sides toward which a segment would start motion (check 5 of R13); `true` is the positive
side. -/
def State.sidesToward (s : State) (a : Axis) (w : Work) : List Bool :=
  match w with
  | .run r _ => if 0 < r then [true] else if r < 0 then [false] else []
  | .home _ _ _ negative =>
    if (s.mg a).isStill && s.homeActive a then [!negative, negative] else [!negative]
  | _ =>
    match Work.target w (s.mg a).pos with
    | some t => if (s.mg a).pos < t then [true] else if t < (s.mg a).pos then [false] else []
    | none => []

/-- Check 1c of R13. -/
def State.checkRange (s : State) (a : Axis) (w : Work) : Option RejectReason :=
  match w with
  | .moveRel d _ => if inRange ((s.mg a).pos + d) then none else some .positionRange
  | _ => none

/-- Check 4 of R13. -/
def State.checkSoftLimit (s : State) (a : Axis) (w : Work) : Option RejectReason :=
  match Work.target w (s.mg a).pos with
  | some t =>
    if (s.cfg a).softLimits && (t < (s.cfg a).lo || (s.cfg a).hi < t) then some .softLimitTarget
    else none
  | none => none

/-- Check 5 of R13. -/
def State.checkBlocks (s : State) (a : Axis) (w : Work) : Option RejectReason :=
  if (s.sidesToward a w).any (s.seq a).blocked then some .directionBlocked else none

/-- The checks that the grant repeats, in order (R16). -/
def State.repeatChecks (s : State) (a : Axis) (w : Work) : Option RejectReason :=
  s.checkRange a w <|> s.checkSoftLimit a w <|> s.checkBlocks a w

/-- Check 6 of R13. -/
def State.checkEntry (s : State) (a : Axis) (st : Start) : Option RejectReason :=
  match st with
  | .waitRendezvous e =>
    if (s.entry e).state = .closed then some .rdvClosed
    else if !inSet a (s.entry e).members then some .rdvNotMember
    else if (s.entry e).state = .broken then some .rdvBroken
    else none
  | _ => none

/-- The six checks of arming; the first that fails decides (R13). -/
def State.armChecks (s : State) (a : Axis) (seg : Segment) : Option RejectReason :=
  match seg.body with
  | none => some .badField
  | some b =>
    let noLine : Bool := match b.work with
      | .home _ _ _ _ => (s.cfg a).homeLine.isNone
      | _ => false
    (if noLine then some .noHomeLine else none)
      <|> s.checkRange a b.work
      <|> (if Work.usesBank b.work && !(s.bank b.bank).written then some .bankEmpty else none)
      <|> (if (s.cfg a).vmax < Work.speed b.work then some .velocityLimit else none)
      <|> s.checkSoftLimit a b.work
      <|> s.checkBlocks a b.work
      <|> s.checkEntry a b.start

/-! ### Arming (R12, R14) -/

/-- A member, which has arrived and waits in COND, waits on the fire of its entry (R43, R44). -/
def State.waitFire (b : Axis) (s : State) : State :=
  if (s.seq b).sq = .wait .cond then (s.setProgress b .waitStart).setSq b (.wait .place) else s

/-- The candidate arrives at its entry; the last arrival makes the fire claim (R43, R44). -/
def State.arrive (s : State) (a : Axis) (e : EntryNo) : State :=
  let s := (s.modEntry e fun r => { r with arrived := r.arrived ||| axisBit a }).waitCond a
  if (s.entry e).arrived = (s.entry e).members then
    (forEach (members (s.entry e).members) State.waitFire s).addClaim (.fire e)
  else s

/-- The candidate joins the tail of a signal's waiter list, and is judged if it is the head (R14,
R35, R36). -/
def State.joinSignal (s : State) (a : Axis) (n : SignalNo) : State :=
  let alone := (s.signal n).waiters.isEmpty
  let s := (s.modSignal n fun x => { x with waiters := x.waiters ++ [a] }).waitCond a
  if alone then s.judgeHead n else s

/-- Judge the start condition of a candidate that has passed its checks (R14). -/
def State.judgeStart (s : State) (a : Axis) (st : Start) : State :=
  match st with
  | .afterPrevious => s.claimStart a
  | .waitInput l edge => if edge = .active && (s.line l).filtered then s.claimStart a else s.waitCond a
  | .waitSignal n => s.joinSignal a n
  | .waitPosition w up threshold =>
    let x : Watcher := ⟨up, threshold⟩
    if x.holds (s.mg w).pos then s.claimStart a else (s.setWatcher w a (some x)).waitCond a
  | .waitRendezvous e => s.arrive a e

/-- Arm the candidate of an axis, if it has one (R12). -/
def State.arm (s : State) (a : Axis) : State :=
  match (s.seq a).candidate with
  | none => s
  | some e =>
    match s.armChecks a e.seg, e.seg.body with
    | some r, _ => s.claimReject a r
    | none, some b => s.judgeStart a b.start
    | none, none => s

/-! ### The completion event (R64) -/

/-- What follows the removal of a completed entry (R21, R66). -/
def State.afterCompletion (s : State) (a : Axis) (w : Work) : State :=
  match (s.seq a).window, w with
  | [], .run _ true => (s.setSq a .empty).haltCause a .underrun .soft false
  | [], _ => s.setSq a .empty
  | _ :: _, _ => s.arm a

/-- The completion event of the active segment, with the aux word of its SEG_DONE (R64, R88). -/
def State.completionEvent (s : State) (a : Axis) (aux : Int) : State :=
  match (s.seq a).activeEntry with
  | none => s
  | some e =>
    match e.seg.body with
    | none => s
    | some b =>
      let s := s.applyOut b.outEnd
      let s := s.fill (.axis a) (segDone s a e aux)
      let s := match b.postSignal with
        | some n => s.postSignal n 1
        | none => s
      let s := (s.removeHead a).modMg a MG.clearGoal
      s.afterCompletion a b.work

/-- Complete the active segment with the velocity in aux, the motion state being as given (R64). -/
def State.complete (s : State) (a : Axis) (motion : MotionState → MotionState) : State :=
  let s := s.modMg a fun m => { m with motion := motion m.motion }
  s.completionEvent a (s.mg a).velocity

/-! ### The homing run (chapter 4) -/

/-- The fields of the active segment. -/
def State.activeBody (s : State) (a : Axis) : Option SegBody :=
  match (s.seq a).activeEntry with
  | some e => e.seg.body
  | none => none

/-- Record the homing state of the active HOME (R78). -/
def State.setHoming (s : State) (a : Axis) (h : HomeState) : State :=
  s.modSeq a fun q => q.setHead (.active (some h))

/-- The home line is also the limit line of the search side (R79). -/
def State.homeIsLimit (s : State) (a : Axis) (h : HomeState) : Bool :=
  (s.cfg a).homeLine.isSome && (s.cfg a).homeLine == (s.cfg a).limit h.searchPositive

/-- The segment velocity of a HOME. -/
def homeVelocity (b : SegBody) : Nat := Work.speed b.work

/-- A phase begins its motion from standstill toward a side (R80 to R82). -/
def State.beginPhase (s : State) (a : Axis) (h : HomeState) (p : HomePhase) (positive : Bool)
    (b : SegBody) : State :=
  (s.setHoming a { h with phase := p }).modMg a fun m => m.startSeek positive (homeVelocity b)

/-- The homing run fails (R86). -/
def State.homeFail (s : State) (a : Axis) (k : StopKind) : State := s.haltCause a .homeFail k false

/-- The standstill of a descent within a HOME (R78, R80, R82), with the failures of R86. -/
def State.homeStandstill (s : State) (a : Axis) (h : HomeState) (b : SegBody) : State :=
  let p := h.searchPositive
  let sensed := s.homeActive a && !s.homeIsLimit a h
  match h.phase with
  | .leadIn =>
    if s.homeActive a then
      if (s.seq a).blocked (!p) then s.homeFail a .soft else s.beginPhase a h .clear (!p) b
    else if (s.seq a).blocked p then s.homeFail a .soft
    else s.beginPhase a h .search p b
  | .clear =>
    if (s.seq a).blocked p || sensed then s.homeFail a .soft else s.beginPhase a h .search p b
  | .searchBack =>
    if (s.seq a).blocked (!p) || sensed then s.homeFail a .soft
    else s.beginPhase a h .searchBack (!p) b
  | .search | .settle => s

/-- The home offset of a HOME. -/
def homeOffset (b : SegBody) : Int :=
  match b.work with
  | .home o _ _ _ => o
  | _ => 0

/-- The end of SETTLE: the re-reference and the completion, or HOME_FAIL (R84, R88). -/
def State.settleEnd (s : State) (a : Axis) (h : HomeState) (b : SegBody) : State :=
  match h.homePoint with
  | none => s
  | some p =>
    let new := homeOffset b + ((s.mg a).pos - p)
    if inRange new then (s.setPosition a new).completionEvent a p else s.homeFail a .soft

/-- The home edge (R83). -/
def State.homeEdge (s : State) (a : Axis) (h : HomeState) (b : SegBody) : State :=
  let n := (s.fbm a).count
  let h := { h with phase := .settle, homePoint := some (s.mg a).pos, edgeCount := some n }
  let s := (s.modFbm a fun f => { f with homeCount := n }).setHoming a h
  let p := (s.mg a).startSettle
  let s := s.modMg a fun _ => p.1
  if p.2 = .targetReached then s.settleEnd a h b else s

/-- A phase begins a descent to zero at a rate (R80, R82). -/
def State.homeDescend (s : State) (a : Axis) (h : HomeState) (b : SegBody) (rate : Nat) : State :=
  let p := (s.mg a).startStop rate
  let s := (s.setHoming a h).modMg a fun _ => p.1
  if p.2 = .standstill then s.homeStandstill a h b else s

/-- The phase seeks an edge: its rise or its cruise is running, and not its descent (R80, R82). -/
def MG.seeking (m : MG) : Bool :=
  match m.goal with
  | .velocity _ => true
  | _ => false

/-! ### What the MG reports (R52) -/

/-- The MG's event at an active segment. -/
def State.takeActive (s : State) (a : Axis) (b : SegBody) (ev : MgEvent) : State :=
  match ev, b.work with
  | .none, _ => s
  | .holds, _ => s.complete a id
  | .velocityReached, .run _ _ => s.complete a fun _ => .hold
  | .velocityReached, .home _ _ _ _ => s.modMg a fun m => { m with motion := .cruise }
  | .standstill, .home _ _ _ _ =>
    match (s.seq a).homing with
    | some h => s.homeStandstill a h b
    | none => s
  | .targetReached, .home _ _ _ _ =>
    match (s.seq a).homing with
    | some h => s.settleEnd a h b
    | none => s
  | .standstill, _ => s.complete a id
  | .targetReached, _ => s.complete a id
  | .velocityReached, _ => s

/-- The SEQ takes an event of its MG (R52); at the standstill of a halting axis it becomes SQ_HALTED
(R101). -/
def State.takeMgEvent (s : State) (a : Axis) (ev : MgEvent) : State :=
  match (s.seq a).sq with
  | .halting => if (s.mg a).isStill then s.setSq a .halted else s
  | .run =>
    match s.activeBody a with
    | some b => s.takeActive a b ev
    | none => s
  | _ => s

/-! ### Grants (R16, R17, R19, R45) -/

/-- The first homing phase and its motion at the start event of a HOME (R63, R78). -/
def State.firstPhase (s : State) (a : Axis) (v : Nat) (negative : Bool) : HomeState × MG × MgEvent :=
  let m := s.mg a
  let h (p : HomePhase) : HomeState := ⟨p, !negative, none, none⟩
  if !m.isStill then (h .leadIn, m.startStop m.profile.decel)
  else if s.homeActive a then (h .clear, m.startSeek negative v, .none)
  else (h .search, m.startSeek (!negative) v, .none)

/-- What a start event hands the MG, by kind (R18): the homing state of a HOME, the MG, and its
event. -/
def State.handToMg (s : State) (a : Axis) (w : Work) : Option HomeState × MG × MgEvent :=
  let m := s.mg a
  match w with
  | .moveAbs t v => (none, m.startMove t v)
  | .moveRel d v => (none, m.startMove (m.pos + d) v)
  | .run r _ => (none, m.startRun r)
  | .stop => (none, m.startStop m.profile.decel)
  | .dwell d => (none, m.startDwell (s.time + BitVec.ofNat 32 d), .none)
  | .home _ v _ negative =>
    let p := s.firstPhase a v negative
    (some p.1, p.2)
  | .mark => (none, m, .holds)

/-- Step 1 of R17: copy the bank into the active profile and lower its use count. -/
def State.copyBank (s : State) (a : Axis) (k : Option BankNo) : State :=
  match k with
  | some b => (s.modMg a fun m => { m with profile := (s.bank b).profile }).lowerUse k
  | none => s

/-- Step 5 of R17: leave the waiter list of the signal and take one count. -/
def State.takeCount (s : State) (a : Axis) (st : Start) : State :=
  match st with
  | .waitSignal n => (s.modSignal n fun x => { x with count := x.count - 1 }).leaveList a n
  | _ => s

/-- The start event of the candidate (R17), with the event its motion brings at once (R62). -/
def State.startEvent (s : State) (a : Axis) : State × MgEvent :=
  match (s.seq a).candidate with
  | none => (s, .none)
  | some e =>
    match e.seg.body with
    | none => (s, .none)
    | some b =>
      let s := (s.copyBank a e.seg.bankUse).applyOut b.outStart
      let p := s.handToMg a b.work
      let s := s.modMg a fun _ => p.2.1
      let s := (s.modSeq a fun q => q.setHead (.active p.1)).setSq a .run
      (s.takeCount a b.start, p.2.2)

/-- Steps 1 to 3 of a rejection (R19), the place being reserved for the axis. -/
def State.rejectEntry (s : State) (a : Axis) (r : RejectReason) : State :=
  match (s.seq a).candidate with
  | none => s
  | some e => ((s.fill (.axis a) (segRejected s a e r)).removeHead a).lowerUse e.seg.bankUse

/-- A rejection with its REJECT halt (R19, R20). -/
def State.reject (s : State) (a : Axis) (r : RejectReason) : State :=
  (s.rejectEntry a r).haltCause a .reject .soft false

/-- The candidate's condition no longer holds at the grant (R16, R37). -/
def State.conditionLost (s : State) (st : Start) : Bool :=
  match st with
  | .waitSignal n => (s.signal n).count == 0
  | _ => false

/-- The repeated checks of the candidate of an axis (R16). -/
def State.repeatAt (s : State) (a : Axis) : Option RejectReason :=
  match (s.seq a).candidate with
  | some e =>
    match e.seg.body with
    | some b => s.repeatChecks a b.work
    | none => none
  | none => none

/-- The grant of a place, already reserved, to a candidate that waits to start (R16, R17). -/
def State.grantStart (s : State) (a : Axis) (b : SegBody) : State :=
  match s.repeatChecks a b.work with
  | some r => s.reject a r
  | none =>
    if s.conditionLost b.start then (s.returnPlace (.axis a)).waitCond a
    else
      let p := s.startEvent a
      p.1.takeMgEvent a p.2

/-- The grant of a place, already reserved, to the candidate of an axis (R16). -/
def State.grantAxis (s : State) (a : Axis) : State :=
  match (s.seq a).candidate with
  | some e =>
    match e.state, e.seg.body with
    | .pending (.waitReject r), _ => s.reject a r
    | .pending .waitStart, some b => s.grantStart a b
    | _, _ => s.returnPlace (.axis a)
  | none => s.returnPlace (.axis a)

/-- Take the start events of a list of members in order, with the events of their motions (R45). -/
def startAll : List Axis → State → State × List (Axis × MgEvent)
  | [], s => (s, [])
  | a :: rest, s =>
    let p := s.startEvent a
    let q := startAll rest p.1
    (q.1, (a, p.2) :: q.2)

/-- The entry fires (R45). -/
def State.fired (s : State) (e : EntryNo) : State :=
  s.modEntry e fun r => { r with arrived := 0, fireCount := r.fireCount + 1, lastFire := s.time }

/-- A member of a failed fire before the halts: rejected, or its place returned (R24, R45). -/
def State.failMember (out : Axis → Option RejectReason) (a : Axis) (s : State) : State :=
  match out a with
  | some r => s.rejectEntry a r
  | none => s.returnPlace (.axis a)

/-- The halt of a member of a failed fire (R45). -/
def State.haltMember (out : Axis → Option RejectReason) (a : Axis) (s : State) : State :=
  s.haltCause a (if (out a).isSome then .reject else .group) .soft false

/-- The axis by whose number a claim ranks: its claimant, and of a fire claim its lowest-numbered member
(R155). -/
def State.claimAxis (s : State) (c : Claim) : Axis :=
  match c with
  | .axis a => a
  | .fire e => (members (s.entry e).members).headD 0

/-- The step of an axis's service that made a claim (R84, R64): the watchers of its position come first,
then the post of its completion or its departure from the head of a waiter list (R36), whose claimant waits on a
signal, and last the arming of its own next candidate (log entry 25). -/
def State.claimStep (s : State) (served : Axis) (c : Claim) : Nat :=
  match c with
  | .fire _ => 2
  | .axis a =>
    if a = served then 2
    else
      match (s.seq a).candidate.bind fun e => e.seg.body.map SegBody.start with
      | some (.waitSignal _) => 1
      | _ => 0

/-- The rank of a claim among those made where several axes are served at once: by the step that made it,
and of one step by axis number (R155). -/
def State.claimRank (s : State) (served : Axis) (c : Claim) : Nat :=
  4 * s.claimStep served c + (s.claimAxis c).val

/-- Several axes are served in order, each by its own change; the claims that each service makes, with
their ranks, are returned. -/
def takeAll : List (Axis × (State → State)) → State → State × List (Nat × Claim)
  | [], s => (s, [])
  | x :: rest, s =>
    let s' := x.2 s
    let made := (s'.claims.filter (!s.claims.contains ·)).map fun c => (s'.claimRank x.1 c, c)
    let p := takeAll rest s'
    (p.1, made ++ p.2)

/-- The claims made stand behind the earlier ones, by their ranks, of which there are twelve (R155). -/
def State.orderClaims (s : State) (made : List (Nat × Claim)) : State :=
  let made := made.filter fun x => s.claims.contains x.2
  let new := (List.range 12).flatMap fun k => (made.filter (·.1 == k)).map (·.2)
  { s with claims := s.claims.filter (!new.contains ·) ++ new }

/-- Several axes are served at one event, in order, and the claims made take their places by their ranks
(R155, log entry 25). -/
def State.atOneStep (s : State) (l : List (Axis × (State → State))) : State :=
  let p := takeAll l s
  p.1.orderClaims p.2

/-- A fire: every start event, the entry, and then what the motions bring at once (R45, R62). -/
def State.fire (s : State) (e : EntryNo) (ms : List Axis) : State :=
  let p := startAll ms s
  (p.1.fired e).atOneStep (p.2.map fun x => (x.1, fun s => s.takeMgEvent x.1 x.2))

/-- A fire that fails: `out` are the outcomes of the repeated checks (R24, R45). -/
def State.failFire (s : State) (e : EntryNo) (ms : List Axis) (out : Axis → Option RejectReason) :
    State :=
  let s := (forEach ms (State.failMember out) s).modEntry e fun r =>
    { r with arrived := 0, state := if 2 ≤ ms.length then .broken else r.state }
  forEach ms (State.haltMember out) s

/-- The grant of its places, already reserved, to a fire (R45). -/
def State.grantFire (s : State) (e : EntryNo) : State :=
  let ms := members (s.entry e).members
  if ms.all fun a => (s.repeatAt a).isNone then s.fire e ms else s.failFire e ms s.repeatAt

/-! ### Discarding a window (R23) -/

/-- The barrier count of an axis follows `n` records that its consumer index has passed (R146). -/
def barrierPasses : Nat → Axis → State → State
  | 0, _, s => s
  | n + 1, a, s => barrierPasses n a (s.barrierPass a)

/-- The consumer index of an axis ring passes `n` records at one event without handing them to the
SEQ (R23, R167). -/
def State.passRecords (s : State) (a : Axis) (n : Nat) : State :=
  barrierPasses n a (s.modRing (axisRing a) fun r => r.pass n)

/-- Mark the fetch in flight of an axis ring for discard (R8). -/
def State.markDiscard (s : State) (a : Axis) : State :=
  s.modRing (axisRing a) fun r =>
    { r with fetch := if r.fetch = .inFlight then .discard else r.fetch }

/-- The records of an axis in flight: 0 or 1. -/
def State.inFlight (s : State) (a : Axis) : Nat :=
  if (s.ring (axisRing a)).fetch = .inFlight then 1 else 0

/-- The first sequence number of the flush range (R23). -/
def State.flushFirst (s : State) (a : Axis) : BitVec 16 :=
  match (s.seq a).window with
  | e :: _ => e.seq
  | [] => (s.ring (axisRing a)).seqNo

/-- Empty the window: the PENDING entries release their bank uses, and what waits on the candidate is
withdrawn (R23). -/
def State.emptyWindow (s : State) (a : Axis) : State :=
  let s := (s.seq a).window.foldl
    (fun s e => if e.isPending then s.lowerUse e.seg.bankUse else s) s
  (s.modSeq a fun q => { q with window := [] }).withdraw a

/-- Discard a window, the consumer index passing `n` records (R23): the state, and the first sequence
number and the count of the flush range. -/
def State.discard (s : State) (a : Axis) (n : Nat) : State × BitVec 16 × Nat :=
  let first := s.flushFirst a
  let count := (s.seq a).window.length + n
  (((s.passRecords a n).markDiscard a).emptyWindow a, first, count)

end Sys2Proof.Machine
end

