-- ==== Sys2Proof/Machine/Arbiter.lean ====
section
/-! DEFINITION. What follows every event: the place arbiter (R155, R156), the Control Engine's claim
and its waiting BARRIER, the transfers that may begin, the end of a drain (R174) and of a fault
(R176). -/

namespace Sys2Proof.Machine

/-! ### The place arbiter (R155) -/

/-- The places that a resolution claim needs. -/
def State.need (s : State) (c : Claim) : Nat :=
  match c with
  | .axis _ => 1
  | .fire e => (members (s.entry e).members).length

/-- The axes whose places a resolution claim reserves. -/
def State.claimants (s : State) (c : Claim) : List Axis :=
  match c with
  | .axis a => [a]
  | .fire e => members (s.entry e).members

/-- Grant a resolution claim: it leaves the claims, its places are reserved and the candidates
resolve. -/
def State.grantClaim (s : State) (c : Claim) : State :=
  let s := { s with claims := s.claims.tail }
  let s := forEach (s.claimants c) (fun a s => s.reserve (.axis a)) s
  match c with
  | .axis a => s.grantAxis a
  | .fire e => s.grantFire e

/-- Grant the CTE's claim: its place is reserved and the fetch of the next CTL record begins (R136
step 2). -/
def State.grantCte (s : State) : State :=
  { (s.reserve .cte).modRing ctl fun r => { r with fetch := .inFlight } with cte := .fetch }

/-- One grant of the arbiter in the order of R155, where there is one. -/
def State.serveOnce (s : State) : Option State :=
  if !s.active || s.queue.free = 0 then none
  else if !s.owed.isEmpty then some s.placeFirstOwed
  else if s.cte = .claim then some s.grantCte
  else
    match s.claims with
    | c :: _ => if s.need c ≤ s.queue.free then some (s.grantClaim c) else none
    | [] => none

/-- The arbiter serves as far as the FREE places allow; the bound on the grants of one event is far
above what eight places admit (log entry 26). -/
def serveUpTo : Nat → State → State
  | 0, s => s
  | n + 1, s =>
    match s.serveOnce with
    | some s' => serveUpTo n s'
    | none => s

/-- The bound on the grants of one event. -/
def serveBound : Nat := 64

/-- The arbiter serves (R156). -/
def State.serve (s : State) : State := serveUpTo serveBound s

/-! ### The end of a drain and of a fault -/

/-- Every axis has velocity 0. -/
def State.allStill (s : State) : Bool := allAxes.all fun a => (s.mg a).isStill

/-- No fetch is in flight on any ring and no consumer report write is in flight. -/
def State.noTransfers (s : State) : Bool :=
  allRings.all fun r => (s.ring r).fetch == .idle && (s.ring r).report == .idle

/-- The conditions at which the drain ends (R174). -/
def State.quiet (s : State) : Bool :=
  s.allStill && s.queue.held == 0 && s.owed.isEmpty && s.noTransfers

/-- The end of the drain, where it is due (R174). -/
def State.drainEnd (s : State) : State :=
  if s.dev = .drain && s.quiet then { s with dev := .off }.setDevice else s

/-- Empty the window of an axis without account (R11). -/
def State.dropWindow (a : Axis) (s : State) : State :=
  (s.modSeq a fun q => { q with window := [] }).removeWatchers a

/-- No bank is used (R11, R75). -/
def State.clearUses (s : State) : State :=
  { s with banks := s.banks.map fun b => { b with uses := 0 } }

/-- What the end of a device fault discards (R176, R11, R32, R124, R137, R152, R154). -/
def State.discardFrozen (s : State) : State :=
  { (forEach allAxes State.dropWindow s).clearUses with
    queue := .reset, owed := [], claims := [], overflowMask := 0, cte := .idle
    caps := Vector.replicate 4 .disarmed, rings := Vector.replicate 5 .reset, dev := .off }

/-- The device leaves DS_FAULT, where it is due (R176). -/
def State.faultExit (s : State) : State :=
  if s.dev = .fault && !s.enable && s.allStill then s.discardFrozen else s

/-! ### After an event -/

/-- The fetches that R7 allows on the axis rings begin. -/
def State.beginFetches (s : State) : State := forEach allAxes State.beginFetch s

/-- What follows an event, at that event: the arbiter serves, the BARRIER is judged, the CTE claims,
the transfers whose conditions hold begin, and a drain or a fault ends where it is due. -/
def State.finish (s : State) : State :=
  s.serve.judgeBarrier.cteClaim.serve.beginFetches.beginCplWrite.drainEnd.faultExit

/-- The outcome of a command. `f` is its effect at its event, `none` where the part ignores the command
or where its event cannot occur: then nothing changes (R182, log entry 4). Nothing happens while the
RESET line is held (R134). -/
def State.event (s : State) (f : State → Option State) : Host.Outcome State Fault Refusal :=
  .next (if s.resetHeld then s else
    match f s with
    | some t => t.finish
    | none => s)

/-- What one microsecond brings where no command is waiting (log entry 3): the Timebase counts, and
each motion goes on along its profile without an event. -/
def State.tick (s : State) : State :=
  if s.resetHeld then s
  else { s with time := s.time + 1, axes := s.axes.map fun x => { x with mg := x.mg.creep } }

end Sys2Proof.Machine
end

