-- ==== Sys2Proof/Machine/Lines.lean ====
section
/-! DEFINITION. The Line Unit (chapter 7): the filter (R126), the filtered edge and the roles that take
it (R127): limit (R93, R94), home (R79 to R83), start condition (R27), capture source (R121) and
machine stop (R110); and the commands RAW_CHANGE and FILTER_EXPIRY. -/

namespace Sys2Proof.Machine

/-- The raw level: the pin level read through the polarity (R125). -/
def LineState.raw (l : LineState) : Bool := l.pin != l.activeLow

/-! ### The limit role -/

/-- The axis moves toward a side (R93): by the sign of the velocity, or by the direction in which its
motion is to begin. -/
def MG.toward (m : MG) (positive : Bool) : Bool := !m.isStill && m.positive == positive

/-- The reason of a limit halt. -/
def limitReason (positive : Bool) : HaltReason := if positive then .limitPos else .limitNeg

/-- A limit edge outside the phases of a HOME that name it (R93). -/
def State.limitHalt (s : State) (a : Axis) (positive : Bool) : State :=
  if (s.mg a).toward positive then
    s.haltCause a (limitReason positive) (s.cfg a).limitAction false
  else s

/-- The HOME turns at the search-side limit (R82). -/
def reverseOnLimit (b : SegBody) : Bool :=
  match b.work with
  | .home _ _ r _ => r
  | _ => false

/-- A limit edge during a HOME (R79 to R84). -/
def State.limitInHome (s : State) (a : Axis) (positive : Bool) (h : HomeState) (b : SegBody) :
    State :=
  let searchSide : Bool := positive == h.searchPositive
  let excepted : Bool := searchSide && s.homeIsLimit a h
  match h.phase with
  | .leadIn => s.limitHalt a positive
  | .clear => s.homeFail a (s.cfg a).limitAction
  | .search =>
    if excepted || !searchSide then s
    else if reverseOnLimit b then
      s.homeDescend a { h with phase := .searchBack } b (s.cfg a).stopDecel
    else s.limitHalt a positive
  | .searchBack => if excepted then s else s.homeFail a (s.cfg a).limitAction
  | .settle => if excepted then s else s.limitHalt a positive

/-- The filtered active edge of the limit line of a side (R91, R93). -/
def State.limitEdge (s : State) (a : Axis) (positive : Bool) : State :=
  let s := s.modSeq a fun q => q.setLineBlock positive true
  match (s.seq a).homing, s.activeBody a with
  | some h, some b => s.limitInHome a positive h b
  | _, _ => s.limitHalt a positive

/-- The limit role of one side of an axis takes an edge of a line (R93, R94). -/
def State.limitRole (l : Line) (active : Bool) (a : Axis) (positive : Bool) (s : State) : State :=
  if (s.cfg a).limit positive = some l then
    if active then s.limitEdge a positive else s.modSeq a fun q => q.setLineBlock positive false
  else s

/-- The limit roles of an axis, the negative side first. -/
def State.limitRoles (l : Line) (active : Bool) (a : Axis) (s : State) : State :=
  (s.limitRole l active a false).limitRole l active a true

/-- The limit roles of all axes take a level of a line, at one step (R91, R155): where it halts axes that head
waiter lists (R36), the axes behind them claim in ascending number, whichever halt came first (log entry 25).
The edge of a line and a CONFIG_LINE that changes its level do it (R127, R143). -/
def State.limitLevel (s : State) (l : Line) (active : Bool) : State :=
  s.atOneStep (allAxes.map fun a => (a, State.limitRoles l active a))

/-! ### The home role -/

/-- The home role of an axis takes an edge of a line during a HOME (R80 to R83). -/
def State.homeRole (l : Line) (active : Bool) (a : Axis) (s : State) : State :=
  if (s.cfg a).homeLine = some l then
    match (s.seq a).homing, s.activeBody a with
    | some h, some b =>
      match h.phase, active with
      | .clear, false =>
        if (s.mg a).seeking then s.homeDescend a h b (s.mg a).profile.decel else s
      | .search, true => s.homeEdge a h b
      | .searchBack, true => if (s.mg a).seeking then s.homeEdge a h b else s
      | _, _ => s
    | _, _ => s
  else s

/-! ### The start condition -/

/-- An edge is of the kind a WAIT_INPUT waits for (R27). -/
def waitEdgeTakes (e : WaitEdge) (active : Bool) : Bool :=
  match e with
  | .rise | .active => active
  | .fall => !active

/-- The axis waits on the line with a candidate that the edge meets (R27). -/
def State.waitsOn (s : State) (l : Line) (active : Bool) (a : Axis) : Bool :=
  (s.seq a).sq == .wait .cond
    && (match (s.seq a).candidate with
        | some e =>
          match e.seg.body with
          | some b =>
            match b.start with
            | .waitInput l' edge => l' == l && waitEdgeTakes edge active
            | _ => false
          | none => false
        | none => false)

/-- A WAIT_INPUT condition is met (R27, R28). -/
def State.inputRole (l : Line) (active : Bool) (a : Axis) (s : State) : State :=
  if s.waitsOn l active a then s.meet a else s

/-! ### The capture role -/

/-- An edge matches the edge of a unit (R121). -/
def CapEdge.takes (e : CapEdge) (active : Bool) : Bool :=
  match e with
  | .rise => active
  | .fall => !active
  | .both => true

/-- What a capture takes at the edge event (R121). -/
def State.capture (s : State) (c : CapConfig) (active : Bool) : CapPending :=
  { rise := active, pos := (s.mg c.axis).pos, count := (s.fbm c.axis).count, time := s.time,
    missed := 0 }

/-- A capture unit takes an edge of a line (R121). -/
def State.captureRole (l : Line) (active : Bool) (u : UnitNo) (s : State) : State :=
  match s.cap u with
  | .armed c =>
    if c.line = l && c.edge.takes active then
      let p := s.capture c active
      (s.setCap u (if c.continuous then .armedPending c p else .spentPending c p)).owe (.capture u)
    else s
  | .armedPending c p =>
    if c.line = l && c.edge.takes active then
      s.setCap u (.armedPending c { p with missed := min (p.missed + 1) 255 })
    else s
  | .disarmed | .spentPending _ _ => s

/-! ### The machine stop and the filtered edge -/

/-- The machine-stop role takes an active edge (R110, R129). -/
def State.stopRole (s : State) (l : Line) (active : Bool) : State :=
  match (s.line l).stopAll with
  | some k => if active then s.stopAllRequest k else s
  | none => s

/-- A filtered edge: the filtered level takes the raw level, and every role on the line takes the edge
(R126, R127), in the order of the table of R127 (log entry 13). The axes that the limit role halts are served
at one step, and so are the homing runs that the home role completes (R155). A WAIT_INPUT candidate armed by
this same event does not take the edge (R28). -/
def State.filteredEdge (s : State) (l : Line) : State :=
  let active := (s.line l).raw
  let waiting := allAxes.filter (s.waitsOn l active)
  let s := s.modLine l fun x => { x with filtered := active, pendingSince := none }
  let s := s.limitLevel l active
  let s := s.atOneStep (allAxes.map fun a => (a, State.homeRole l active a))
  let s := forEach waiting (State.inputRole l active) s
  let s := forEach allUnits (State.captureRole l active) s
  s.stopRole l active

/-! ### Commands -/

/-- What a raw change does, the pin having its new level (R126). -/
def State.filterRaw (s : State) (l : Line) : State :=
  if (s.line l).raw = (s.line l).filtered then s.modLine l fun x => { x with pendingSince := none }
  else if (s.line l).filterTime = 0 then s.filteredEdge l
  else s.modLine l fun x => { x with pendingSince := some s.time }

/-- A change of the level of an input pin (R126). -/
def State.rawChanged (s : State) (l : Line) (high : Bool) : Option State :=
  if (s.line l).pin = high then none
  else some ((s.modLine l fun x => { x with pin := high }).filterRaw l)

/-- The expiry of a pending change (R126), at its time (log entry 5). -/
def State.filterExpired (s : State) (l : Line) : Option State :=
  match (s.line l).pendingSince with
  | some t => some ((s.reachTime (t + BitVec.ofNat 32 (s.line l).filterTime)).filteredEdge l)
  | none => none

/-- RAW_CHANGE (R126). While the RESET line is held the pin's level is only noted (R125, R134). -/
def execRawChange (l : Line) (high : Bool) (s : State) : Host.Outcome State Fault Refusal :=
  if s.resetHeld then .next (s.modLine l fun _ => .reset high)
  else s.event fun s => s.rawChanged l high

/-- FILTER_EXPIRY (R126). -/
def execFilterExpiry (l : Line) (s : State) : Host.Outcome State Fault Refusal :=
  s.event fun s => s.filterExpired l

end Sys2Proof.Machine
end

