-- ==== Sys2Proof/Machine/Operands.lean ====
section
/-! DEFINITION. The arguments of the sixteen CTL commands, read from their 32-byte records by the
layout of section 11.2 with the tests of R138 and R180: `none` is the record that completes with
BAD_FIELD. -/

namespace Sys2Proof.Machine

/-! ### What every command record holds -/

/-- The flags byte holds no bit but NOTIFY (R180). -/
def flagsOk (r : Record) : Bool := (byteAt r 1).toNat ≤ 1
/-- The NOTIFY flag, honoured whatever the rest holds (R180). -/
def ctlNotify (r : Record) : Bool := (byteAt r 1).getLsbD 0
/-- The tag, returned as written (R180). -/
def ctlTag (r : Record) : BitVec 16 := halfAt r 2

/-- An argument that passes its test; the flags and the bytes that the kind does not list from `a` on
are tested with it. -/
def accept {α : Type} (r : Record) (a : Nat) (ok : Bool) (x : α) : Option α :=
  if flagsOk r && zeroBytes r a 32 && ok then some x else none

/-- A stop kind: SOFT 0, HARD 1. -/
def codeKind (b : Byte) : Option StopKind :=
  match b.toNat with
  | 0 => some .soft
  | 1 => some .hard
  | _ => none

/-- An optional line: 0 is NONE, 1 to 12 are IN0 to IN11 (R178). -/
def codeOptLine (b : Byte) : Option (Option Line) :=
  if b == 0 then some none else (codeBelow 12 (b - 1)).map some

/-- A set of four members: bits 4 to 7 are zero (R180). -/
def codeSet (b : Byte) : Option (BitVec 4) := if b.toNat < 16 then some (b.setWidth 4) else none

/-- A flag coded 0 or 1. -/
def codeFlag (b : Byte) : Option Bool :=
  match b.toNat with
  | 0 => some false
  | 1 => some true
  | _ => none

/-- A value lies in a range. -/
def within (lo hi n : Nat) : Bool := lo ≤ n && n ≤ hi

/-! ### The arguments by kind -/

/-- The stop kind of a bit: HARD when set. -/
def hardIf (b : Bool) : StopKind := if b then .hard else .soft

/-- CONFIG_AXIS: the axis and the items of R140. -/
def argConfigAxis (r : Record) : Option (Axis × AxisConfig) :=
  match codeBelow 4 (byteAt r 4), codeOptLine (byteAt r 6), codeOptLine (byteAt r 7),
      codeOptLine (byteAt r 8) with
  | some a, some neg, some pos, some home =>
    let o := byteAt r 5
    let c : AxisConfig :=
      { enabled := o.getLsbD 0, limitNeg := neg, limitPos := pos, homeLine := home
        limitAction := hardIf (o.getLsbD 1), softLimits := o.getLsbD 2
        lo := (wordAt r 12).toInt, hi := (wordAt r 16).toInt
        stopDecel := (wordAt r 20).toNat, vmax := (wordAt r 24).toNat
        faultAction := hardIf (o.getLsbD 3)
        encNum := (halfAt r 28).toNat, encDen := (halfAt r 30).toNat
        tolerance := (r.extractLsb' 72 24).toNat, disableOnFault := o.getLsbD 4 }
    accept r 32
      (o.toNat < 32 && c.tolerance ≤ 1000000 && (!c.softLimits || c.lo < c.hi)
        && within 1 8000000 c.stopDecel && within 1 1000000 c.vmax
        && within 1 65535 c.encNum && within 1 65535 c.encDen)
      (a, c)
  | _, _, _, _ => none

/-- The items of a CONFIG_LINE (R143). -/
structure LineArgs where
  line       : Line
  activeLow  : Bool
  filterTime : Nat
  stopAll    : Option StopKind
deriving DecidableEq, Repr

/-- CONFIG_LINE: a stop kind given with the role "no" must be zero (R143). -/
def argConfigLine (r : Record) : Option LineArgs :=
  match codeBelow 12 (byteAt r 4), codeFlag (byteAt r 5), codeFlag (byteAt r 8),
      codeKind (byteAt r 9) with
  | some l, some low, some role, some k =>
    let f := (halfAt r 6).toNat
    accept r 10 (f ≤ 1023 && (role || k == .soft)) ⟨l, low, f, if role then some k else none⟩
  | _, _, _, _ => none

/-- SET_POSITION (R145). -/
def argSetPosition (r : Record) : Option (Axis × Int) :=
  match codeBelow 4 (byteAt r 4) with
  | some a => accept r 12 (zeroBytes r 5 8) (a, (wordAt r 8).toInt)
  | none => none

/-- SET_OUTPUTS (R144). -/
def argSetOutputs (r : Record) : Option OutAction :=
  match codeSet (byteAt r 4), codeSet (byteAt r 5) with
  | some m, some v => accept r 6 true ⟨m, v⟩
  | _, _ => none

/-- BARRIER (R146). -/
def argBarrier (r : Record) : Option (BitVec 4) :=
  match codeSet (byteAt r 4) with
  | some m => accept r 5 true m
  | none => none

/-- The pages of QUERY_AXIS (R148). -/
inductive Page where
  | motion | sequence | feedback | home
deriving DecidableEq, Repr

/-- A page code. -/
def codePage (b : Byte) : Option Page :=
  match b.toNat with
  | 0 => some .motion
  | 1 => some .sequence
  | 2 => some .feedback
  | 3 => some .home
  | _ => none

/-- QUERY_AXIS (R148). -/
def argQueryAxis (r : Record) : Option (Axis × Page) :=
  match codeBelow 4 (byteAt r 4), codePage (byteAt r 5) with
  | some a, some p => accept r 6 true (a, p)
  | _, _ => none

/-- QUERY_LINES carries no argument (R149). -/
def argQueryLines (r : Record) : Option Unit := accept r 4 true ()

/-- WRITE_BANK (R77). -/
def argWriteBank (r : Record) : Option (BankNo × Profile) :=
  match codeBelow 8 (byteAt r 4) with
  | some b =>
    let p : Profile :=
      { accel := (wordAt r 8).toNat, decel := (wordAt r 12).toNat
        vstart := (wordAt r 16).toNat, vstop := (wordAt r 20).toNat }
    accept r 24
      (zeroBytes r 5 8 && within 1 8000000 p.accel && within 1 8000000 p.decel
        && p.vstart ≤ 1000000 && p.vstop ≤ 1000000)
      (b, p)
  | none => none

/-- POST_SIGNAL (R38). -/
def argPostSignal (r : Record) : Option (SignalNo × Nat) :=
  match codeBelow 16 (byteAt r 4) with
  | some n => accept r 6 (within 1 15 (byteAt r 5).toNat) (n, (byteAt r 5).toNat)
  | none => none

/-- CLEAR_SIGNAL (R39). -/
def argClearSignal (r : Record) : Option SignalNo :=
  match codeBelow 16 (byteAt r 4) with
  | some n => accept r 5 true n
  | none => none

/-- OPEN_RENDEZVOUS (R41). -/
def argOpenRendezvous (r : Record) : Option (EntryNo × BitVec 4) :=
  match codeBelow 8 (byteAt r 4), codeSet (byteAt r 5) with
  | some e, some m => accept r 6 (m != 0) (e, m)
  | _, _ => none

/-- CLOSE_RENDEZVOUS (R42). -/
def argCloseRendezvous (r : Record) : Option EntryNo :=
  match codeBelow 8 (byteAt r 4) with
  | some e => accept r 5 true e
  | none => none

/-- HALT (R105). -/
def argHalt (r : Record) : Option (Axis × StopKind) :=
  match codeBelow 4 (byteAt r 4), codeKind (byteAt r 5) with
  | some a, some k => accept r 6 true (a, k)
  | _, _ => none

/-- RESUME (R106); `true` is the mode FLUSH. -/
def argResume (r : Record) : Option (Axis × Bool) :=
  match codeBelow 4 (byteAt r 4), codeFlag (byteAt r 5) with
  | some a, some m => accept r 6 true (a, m)
  | _, _ => none

/-- The capture edges. -/
def codeEdge (b : Byte) : Option CapEdge :=
  match b.toNat with
  | 1 => some .rise
  | 2 => some .fall
  | 3 => some .both
  | _ => none

/-- ARM_CAPTURE (R120). -/
def argArmCapture (r : Record) : Option (UnitNo × CapConfig) :=
  match codeBelow 4 (byteAt r 4), codeBelow 12 (byteAt r 5), codeEdge (byteAt r 6),
      codeBelow 4 (byteAt r 7), codeFlag (byteAt r 8) with
  | some u, some l, some e, some a, some m => accept r 9 true (u, ⟨l, e, a, m⟩)
  | _, _, _, _, _ => none

/-- DISARM_CAPTURE (R123). -/
def argDisarmCapture (r : Record) : Option UnitNo :=
  match codeBelow 4 (byteAt r 4) with
  | some u => accept r 5 true u
  | none => none

end Sys2Proof.Machine
end

