-- ==== Sys2Proof/WellFormed.lean ====
section
/-! DEFINITION. When an `Instr` is one its row of the table can name: the word of a CTRL row has the
row's bits, a REGISTER_WRITE is to a register that ignores it, an acknowledge names a cause, and a
CTL record has the kind byte of its row (sections 11.2 and 11.5). -/

namespace Sys2Proof

/-- The kind byte of a 32-byte record (offset 0, sections 11.1 and 11.2). -/
def kindByte (r : Record) : Byte := r.extractLsb' 0 8

/-- Bit 0 of CTRL: ENABLE. -/
def ctrlEnable (w : Word) : Bool := w.getLsbD 0
/-- Bit 1 of CTRL: RESET. -/
def ctrlReset (w : Word) : Bool := w.getLsbD 1
/-- Bit 2 of CTRL: STOP_ALL_SOFT. -/
def ctrlStopSoft (w : Word) : Bool := w.getLsbD 2
/-- Bit 3 of CTRL: STOP_ALL_HARD. -/
def ctrlStopHard (w : Word) : Bool := w.getLsbD 3

/-- The offsets of the registers that a write can act on (section 11.5). -/
def writableOffsets : List Word := [0x04#32, 0x0C#32, 0x10#32, 0x14#32, 0x18#32, 0x1C#32]

/-- The well-formedness of a command. -/
def Instr.wf : Instr → Bool
  | .softReset w => ctrlReset w
  | .enableSet w => ctrlEnable w && !ctrlReset w
  | .enableClear w => !ctrlEnable w && !ctrlReset w
  | .stopAllSoft w => ctrlStopSoft w && !ctrlStopHard w && !ctrlReset w
  | .stopAllHard w => ctrlStopHard w && !ctrlReset w
  | .intsAcknowledge w => w.getLsbD 8 || w.getLsbD 9 || w.getLsbD 10
  | .registerWrite o _ => !writableOffsets.contains o
  | .configAxis r => kindByte r == 1
  | .configLine r => kindByte r == 2
  | .setPosition r => kindByte r == 3
  | .setOutputs r => kindByte r == 4
  | .barrier r => kindByte r == 5
  | .queryAxis r => kindByte r == 6
  | .queryLines r => kindByte r == 7
  | .writeBank r => kindByte r == 8
  | .postSignal r => kindByte r == 9
  | .clearSignal r => kindByte r == 10
  | .openRendezvous r => kindByte r == 11
  | .closeRendezvous r => kindByte r == 12
  | .halt r => kindByte r == 13
  | .resume r => kindByte r == 14
  | .armCapture r => kindByte r == 15
  | .disarmCapture r => kindByte r == 16
  | .unknownCommandKind r => kindByte r == 0 || 16 < (kindByte r).toNat
  | .powerOn | .resetLine _ | .resetRelease | .setupLoWrite _ | .setupHiWrite _ | .post _ | .cack _
  | .rawChange _ _ | .filterExpiry _ | .encoderChange _ _ _ | .mgStep _ | .profilePhaseEnd _
  | .dwellExpiry _ | .holdoffExpiry | .fetchCompletion _ _ | .setupReadCompletion _
  | .cplWriteCompletion | .reportWriteCompletion _ | .busFault _ => true

end Sys2Proof
end

