-- ==== Sys2Proof/Machine/Commands.lean ====
section
/-! DEFINITION. The commands of the CTL ring (chapter 8 and the rules its table names): the take and
the CMD_DONE they share (R136, R138, R139), and the effect and the answer of each. -/

namespace Sys2Proof.Machine

/-! ### The take (R136) -/

/-- An answer with zero words and byte. -/
def Answer.bare (st : CmdStatus) : Answer := ⟨st, 0, 0, 0⟩

/-- The answer OK with its byte and words. -/
def Answer.ok (byte : Byte) (first second : Word) : Answer := ⟨.ok, byte, first, second⟩

/-- A CTL fetch is in flight for the CTE (R135). -/
def State.ctlReady (s : State) : Bool := s.cte == .fetch && (s.ring ctl).fetch == .inFlight

/-- The CTL consumer index passes the record (R136 step 3). -/
def State.takeCtl (s : State) : State :=
  s.modRing ctl fun r => { r with fetch := .idle }.pass 1

/-- Execute a command that ends at its execution. What the execution lets other blocks do is done
before the CMD_DONE is placed (R138, log entry 12). -/
def State.runCommand (s : State) (r : Record) (f : State → State × Answer) : State :=
  let p := f s.takeCtl
  p.1.serve.endCommand (s.ring ctl).seqNo (ctlTag r) (ctlNotify r) p.2

/-- The kind byte names one of the sixteen commands (section 11.2). -/
def namesCommand (r : Record) : Bool := 1 ≤ (kindByte r).toNat && (kindByte r).toNat ≤ 16

/-- The command of a record whose kind names none: BAD_COMMAND, and nothing else is done (test 1 of R138,
R180). -/
def State.badCommand (s : State) (r : Record) : State :=
  s.runCommand r fun s => (s, .bare .badCommand)

/-- The fetch completion that takes a record at the row of the command with kind code `k`, judged by its
kind first (test 1 of R138, R180): a kind that names no command is a BAD_COMMAND; `run` takes the record
where it names the row's command. A record that names another command is not taken at this row (log entry
24). -/
def State.takeRecord (s : State) (k : Byte) (r : Record) (run : State → State) : Option State :=
  if !s.ctlReady then none
  else if !namesCommand r then some (s.badCommand r)
  else if kindByte r = k then some (run s)
  else none

/-- The event at which a command that ends at its execution is taken: the completion of the CTL fetch. -/
def State.ctlEvent (s : State) (k : Byte) (r : Record) (f : State → State × Answer) :
    Host.Outcome State Fault Refusal :=
  s.event fun s => s.takeRecord k r fun s => s.runCommand r f

/-- Execute a command with its arguments; a record that fails a test of R138 completes with BAD_FIELD
and changes nothing (log entry 34). -/
def withArgs {α : Type} (x : Option α) (f : α → State → State × Answer) (s : State) :
    State × Answer :=
  match x with
  | some x => f x s
  | none => (s, .bare .badField)

/-- The SQ state of an axis as an answer byte. -/
def State.sqByte (s : State) (a : Axis) : Byte := (s.seq a).sq.code

/-- The states in which CONFIG_AXIS and SET_POSITION are accepted (R10, R145). -/
def State.settled (s : State) (a : Axis) : Bool :=
  match (s.seq a).sq with
  | .off | .halted => true
  | .empty => (s.mg a).isStill
  | _ => false

/-! ### CONFIG_AXIS (R141, R142) -/

/-- Step 2 with enabled = no (R10, R23, R46). -/
def State.disableAxis (s : State) (a : Axis) : State :=
  let p := (s.modSeq a fun q => { q with sq := .off, reason := none }).breakFor a
  (members p.2).foldl (fun s b => s.haltCause b .group .soft false) p.1

/-- Step 3 (R113, R118). -/
def State.resetFeedback (s : State) (a : Axis) : State :=
  (s.rebase a).modFbm a fun f => { f with enaDropped := false }

/-- Steps 3 and 4. -/
def State.refreshAxis (s : State) (a : Axis) : State :=
  (((s.resetFeedback a).recomputeLineBlocks a).recomputePosBlocks a)

/-- CONFIG_AXIS with enabled = yes, where it is accepted. -/
def State.configEnabled (s : State) (a : Axis) (c : AxisConfig) : State × Answer :=
  let wasOff := (s.seq a).sq == .off
  let s := s.modAxis a fun y => { y with cfg := c }
  let s :=
    if wasOff then s.modSeq a fun q => { q with sq := .empty, reason := none } else s
  let s := s.refreshAxis a
  let s := if wasOff && s.stopLineActive then s.haltCause a .stopAll .soft false else s
  (s, .ok (s.sqByte a) 0 ((s.ring (axisRing a)).seqNo.setWidth 32))

/-- CONFIG_AXIS with enabled = no, where it is accepted. -/
def State.configDisabled (s : State) (a : Axis) (c : AxisConfig) : State × Answer :=
  let p := (s.modAxis a fun y => { y with cfg := c }).discard a (s.inFlight a)
  let s := (p.1.disableAxis a).refreshAxis a
  (s, .ok (s.sqByte a) (BitVec.ofNat 32 p.2.2) (p.2.1.setWidth 32))

/-- CONFIG_AXIS (R141). -/
def configAxis (x : Axis × AxisConfig) (s : State) : State × Answer :=
  if !s.settled x.1 then (s, ⟨.axisBusy, s.sqByte x.1, 0, 0⟩)
  else if s.dev = .drain && (s.seq x.1).sq = .off && x.2.enabled then
    (s, ⟨.draining, s.sqByte x.1, 0, 0⟩)
  else if x.2.enabled then s.configEnabled x.1 x.2
  else s.configDisabled x.1 x.2

/-! ### CONFIG_LINE (R130, R143) -/

/-- The command re-evaluates the line: its polarity or its filter time changes (R130). -/
def reevaluates (l : LineState) (x : LineArgs) : Bool :=
  x.activeLow != l.activeLow || x.filterTime != l.filterTime

/-- The line after the command (R130). -/
def LineState.configure (l : LineState) (x : LineArgs) : LineState :=
  if reevaluates l x then
    { pin := l.pin, activeLow := x.activeLow, filterTime := x.filterTime, stopAll := x.stopAll
      filtered := l.pin != x.activeLow, pendingSince := none }
  else { l with stopAll := x.stopAll }

/-- The stop-all role acts on the level after the command (R110, R130): where it is newly given, or
where the level has become active. -/
def stopActs (before after : LineState) : Bool :=
  after.filtered && (before.stopAll.isNone || !before.filtered)

/-- CONFIG_LINE (R130, R143). DESIGN CHOICE (log entry 13): of a line that is both a limit and a stop-all
line the limit roles act first, of all axes in ascending order and of one axis the negative side first. -/
def configLine (x : LineArgs) (s : State) : State × Answer :=
  let before := s.line x.line
  let after := before.configure x
  let s := s.modLine x.line fun _ => after
  let s :=
    if before.filtered != after.filtered then s.limitLevel x.line after.filtered else s
  let s := s.stopRole x.line (stopActs before after)
  (s, .ok (flagByte (reevaluates before x)) (flagWord before.filtered) (flagWord after.filtered))

/-! ### SET_POSITION and SET_OUTPUTS (R144, R145) -/

/-- SET_POSITION (R145). -/
def setPosition (x : Axis × Int) (s : State) : State × Answer :=
  let answer (st : CmdStatus) : Answer :=
    ⟨st, s.sqByte x.1, word32 (s.mg x.1).pos, (s.fbm x.1).count⟩
  if s.settled x.1 then (s.setPosition x.1 x.2, answer .ok) else (s, answer .axisBusy)

/-- SET_OUTPUTS (R144). -/
def setOutputs (o : OutAction) (s : State) : State × Answer :=
  let s' := s.applyOut o
  (s', .ok 0 (s.outs.setWidth 32) (s'.outs.setWidth 32))

/-! ### BARRIER (R146, R147) -/

/-- The records of an axis ring that a BARRIER counts (R146). -/
def State.countedRecords (s : State) (a : Axis) : Nat :=
  (s.ring (axisRing a)).available - s.inFlight a

/-- The record of a BARRIER at its execution (R135, R146). -/
def State.barrierRec (s : State) (r : Record) (seq : BitVec 16) (m : BitVec 4) : BarrierRec :=
  { seq := seq, tag := ctlTag r, notify := ctlNotify r, axes := m
    counts := Vector.ofFn fun a => if inSet a m then s.countedRecords a else 0
    skip := Vector.ofFn fun a => s.inFlight a == 1 }

/-- How a BARRIER ends at its execution, if it does (R146, R150): the status and the answer byte. -/
def State.barrierEnd (s : State) (b : BarrierRec) : Option (CmdStatus × Byte) :=
  if s.dev = .drain then some (.draining, 0xFF)
  else
    match (members b.axes).find? s.isHalted with
    | some a => some (.barrierHalted, ringByte a)
    | none => if (members b.axes).all (s.barrierSatisfied b) then some (.ok, 0xFF) else none

/-- The execution of a BARRIER (R146): it ends, or the CTE waits with its place reserved. -/
def State.runBarrier (s : State) (r : Record) (m : BitVec 4) : State :=
  let b := s.takeCtl.barrierRec r (s.ring ctl).seqNo m
  match s.takeCtl.barrierEnd b with
  | some e => s.takeCtl.endBarrier b e.1 e.2
  | none => { s.takeCtl with cte := .barrier b }

/-! ### Queries (R148, R149) -/

/-- The deviation as an answer word: limited to the signed 32-bit range (R148). -/
def limited (d : Int) : Word := word32 (max posMin (min posMax d))

/-- The second answer word of the page SEQUENCE. -/
def blockWord (q : Seq) : Word :=
  flagWord q.lineNeg ||| (flagWord q.posNeg <<< 1) ||| (flagWord q.linePos <<< 2)
    ||| (flagWord q.posPos <<< 3)

/-- The first answer word of the page SEQUENCE. -/
def sequenceWord (q : Seq) : Word :=
  q.sq.code.setWidth 32 ||| (q.sq.subCode.setWidth 32 <<< 8)
    ||| ((reasonCode q.reason).setWidth 32 <<< 16)

/-- The answer of a page of QUERY_AXIS (R148). -/
def State.queryAxis (s : State) (a : Axis) (p : Page) : Answer :=
  match p with
  | .motion =>
    .ok (s.mg a).motion.code (word32 (s.mg a).pos) (word32 (s.mg a).velocity)
  | .sequence =>
    .ok (BitVec.ofNat 8 (s.seq a).window.length) (sequenceWord (s.seq a)) (blockWord (s.seq a))
  | .feedback =>
    .ok (flagByte (s.fbm a).tripped ||| (flagByte (s.fbm a).enaDropped <<< 1)) (s.fbm a).count
      (limited (s.deviation a))
  | .home => .ok 0 (s.fbm a).homeCount (word32 (s.mg a).pos)

/-- The set of inputs at their active filtered level (R149). -/
def State.activeInputs (s : State) : Word :=
  allLines.foldl (fun m l => if (s.line l).filtered then m ||| (1#32 <<< l.val) else m) 0

/-- QUERY_LINES (R149). -/
def State.queryLines (s : State) : Answer :=
  .ok (BitVec.ofNat 8 s.stopAllSet.length) s.activeInputs (s.outs.setWidth 32)

/-! ### Banks and signals (R77, R38, R39) -/

/-- WRITE_BANK (R77). -/
def writeBank (x : BankNo × Profile) (s : State) : State × Answer :=
  let b := s.bank x.1
  let answer (st : CmdStatus) : Answer := ⟨st, flagByte b.written, BitVec.ofNat 32 b.uses, 0⟩
  if 0 < b.uses then (s, answer .bankInUse)
  else (s.modBank x.1 fun b => { b with profile := x.2, written := true }, answer .ok)

/-- POST_SIGNAL (R38). -/
def postSignal (x : SignalNo × Nat) (s : State) : State × Answer :=
  let s' := s.postSignal x.1 x.2
  (s', .ok (flagByte (signalMax < (s.signal x.1).count + x.2))
    (BitVec.ofNat 32 (s'.signal x.1).count) 0)

/-- CLEAR_SIGNAL (R39). -/
def clearSignal (n : SignalNo) (s : State) : State × Answer :=
  (s.modSignal n fun x => { x with count := 0 },
   .ok 0 (BitVec.ofNat 32 (s.signal n).count) (BitVec.ofNat 32 (s.signal n).waiters.length))

/-! ### Rendezvous entries (R41, R42) -/

/-- OPEN_RENDEZVOUS (R41). -/
def openRendezvous (x : EntryNo × BitVec 4) (s : State) : State × Answer :=
  let done (s : State) (st : CmdStatus) : State × Answer :=
    (s, ⟨st, (s.entry x.1).state.code, (s.entry x.1).members.setWidth 32, 0⟩)
  if (s.entry x.1).state = .closed then done (s.modEntry x.1 fun _ => ⟨.opened, x.2, 0, 0, 0⟩) .ok
  else done s .entryBusy

/-- CLOSE_RENDEZVOUS (R42). -/
def closeRendezvous (e : EntryNo) (s : State) : State × Answer :=
  let r := s.entry e
  if r.state = .opened && r.arrived ≠ 0 then
    (s, ⟨.entryBusy, r.state.code, r.arrived.setWidth 32, r.lastFire⟩)
  else
    (if r.state = .closed then s
     else s.modEntry e fun r => { r with state := .closed, members := 0, arrived := 0 },
     .ok r.state.code (r.fireCount.setWidth 32) r.lastFire)

/-! ### HALT and RESUME (R105 to R108) -/

/-- The answer byte of HALT (R105, section 11.3). -/
def haltByte : SqState → Byte
  | .off | .halted => 0
  | .halting => 1
  | .empty | .wait _ | .run => 2

/-- HALT (R105). -/
def halt (x : Axis × StopKind) (s : State) : State × Answer :=
  let s' := s.haltCause x.1 .host x.2 false
  (s', .ok (haltByte (s.seq x.1).sq) ((reasonCode (s'.seq x.1).reason).setWidth 32)
    (word32 (s.mg x.1).pos))

/-- What every RESUME taken does: no reason, ENA restored, the monitor armed (R106, R115, R118). -/
def State.resumeAxis (s : State) (a : Axis) : State :=
  (s.modSeq a fun q => { q with reason := none }).modFbm a fun f =>
    { f with tripped := false, enaDropped := false }

/-- RESUME with KEEP (R107). -/
def State.resumeKeep (s : State) (a : Axis) : State :=
  if (s.seq a).window.isEmpty then s.setSq a .empty else s.arm a

/-- RESUME with FLUSH (R108): every record up to the producer index falls into the range. -/
def State.resumeFlush (s : State) (a : Axis) : State × BitVec 16 × Nat :=
  let p := s.discard a (s.ring (axisRing a)).available
  (p.1.setSq a .empty, p.2)

/-- The test of the deviation at a RESUME is taken after its execution, with what that has started
(R115, log entry 16). -/
def State.afterResume (s : State) (a : Axis) : State := s.serve.testDeviation a

/-- A RESUME taken (R107, R108). -/
def State.resumed (s : State) (a : Axis) (flush : Bool) : State × Answer :=
  let byte := reasonCode (s.seq a).reason
  if flush then
    let p := (s.resumeAxis a).resumeFlush a
    (p.1.afterResume a, .ok byte (BitVec.ofNat 32 p.2.2) (p.2.1.setWidth 32))
  else
    (((s.resumeAxis a).resumeKeep a).afterResume a,
     .ok byte (BitVec.ofNat 32 (s.seq a).window.length) 0)

/-- RESUME (R106). DESIGN CHOICE (log entry 46): where it is refused by a state, both answer words are zero. -/
def resume (x : Axis × Bool) (s : State) : State × Answer :=
  let byte := reasonCode (s.seq x.1).reason
  if s.dev = .drain then (s, ⟨.draining, byte, 0, 0⟩)
  else if (s.seq x.1).sq ≠ .halted then (s, .bare .notHalted)
  else if s.stopLineActive then (s, ⟨.lineActive, byte, 0, 0⟩)
  else s.resumed x.1 x.2

/-! ### Capture units (R120, R123) -/

/-- ARM_CAPTURE (R120). -/
def armCapture (x : UnitNo × CapConfig) (s : State) : State × Answer :=
  let done (s : State) (st : CmdStatus) : State × Answer :=
    (s, ⟨st, (s.cap x.1).code, flagWord (s.line x.2.line).filtered, 0⟩)
  if s.dev = .drain then done s .draining
  else if s.cap x.1 ≠ .disarmed then done s .unitBusy
  else done (s.setCap x.1 (.armed x.2)) .ok

/-- Withdraw the owed CAPTURE notice of a unit (R123, R154). -/
def State.withdrawCapture (s : State) (u : UnitNo) : State :=
  { s with owed := s.owed.filter (· != .capture u) }

/-- DISARM_CAPTURE (R123). -/
def disarmCapture (u : UnitNo) (s : State) : State × Answer :=
  let byte := (s.cap u).code
  match s.cap u with
  | .disarmed => (s, .ok byte 0 0)
  | .armed _ => (s.setCap u .disarmed, .ok byte 0 0)
  | .armedPending _ p | .spentPending _ p =>
    ((s.withdrawCapture u).setCap u .disarmed, .ok byte 1 (BitVec.ofNat 32 p.missed))

/-! ### Commands -/

/-- CONFIG_AXIS (R141). -/
def execConfigAxis (r : Record) (s : State) : Host.Outcome State Fault Refusal :=
  s.ctlEvent 1 r (withArgs (argConfigAxis r) configAxis)

/-- CONFIG_LINE (R130). -/
def execConfigLine (r : Record) (s : State) : Host.Outcome State Fault Refusal :=
  s.ctlEvent 2 r (withArgs (argConfigLine r) configLine)

/-- SET_POSITION (R145). -/
def execSetPosition (r : Record) (s : State) : Host.Outcome State Fault Refusal :=
  s.ctlEvent 3 r (withArgs (argSetPosition r) setPosition)

/-- SET_OUTPUTS (R144). -/
def execSetOutputs (r : Record) (s : State) : Host.Outcome State Fault Refusal :=
  s.ctlEvent 4 r (withArgs (argSetOutputs r) setOutputs)

/-- BARRIER (R146). -/
def execBarrier (r : Record) (s : State) : Host.Outcome State Fault Refusal :=
  match argBarrier r with
  | some m => s.event fun s => s.takeRecord 5 r fun s => s.runBarrier r m
  | none => s.ctlEvent 5 r fun s => (s, .bare .badField)

/-- QUERY_AXIS (R148). -/
def execQueryAxis (r : Record) (s : State) : Host.Outcome State Fault Refusal :=
  s.ctlEvent 6 r (withArgs (argQueryAxis r) fun x s => (s, s.queryAxis x.1 x.2))

/-- QUERY_LINES (R149). -/
def execQueryLines (r : Record) (s : State) : Host.Outcome State Fault Refusal :=
  s.ctlEvent 7 r (withArgs (argQueryLines r) fun _ s => (s, s.queryLines))

/-- WRITE_BANK (R77). -/
def execWriteBank (r : Record) (s : State) : Host.Outcome State Fault Refusal :=
  s.ctlEvent 8 r (withArgs (argWriteBank r) writeBank)

/-- POST_SIGNAL (R38). -/
def execPostSignal (r : Record) (s : State) : Host.Outcome State Fault Refusal :=
  s.ctlEvent 9 r (withArgs (argPostSignal r) postSignal)

/-- CLEAR_SIGNAL (R39). -/
def execClearSignal (r : Record) (s : State) : Host.Outcome State Fault Refusal :=
  s.ctlEvent 10 r (withArgs (argClearSignal r) clearSignal)

/-- OPEN_RENDEZVOUS (R41). -/
def execOpenRendezvous (r : Record) (s : State) : Host.Outcome State Fault Refusal :=
  s.ctlEvent 11 r (withArgs (argOpenRendezvous r) openRendezvous)

/-- CLOSE_RENDEZVOUS (R42). -/
def execCloseRendezvous (r : Record) (s : State) : Host.Outcome State Fault Refusal :=
  s.ctlEvent 12 r (withArgs (argCloseRendezvous r) closeRendezvous)

/-- HALT (R105). -/
def execHalt (r : Record) (s : State) : Host.Outcome State Fault Refusal :=
  s.ctlEvent 13 r (withArgs (argHalt r) halt)

/-- RESUME (R106). -/
def execResume (r : Record) (s : State) : Host.Outcome State Fault Refusal :=
  s.ctlEvent 14 r (withArgs (argResume r) resume)

/-- ARM_CAPTURE (R120). -/
def execArmCapture (r : Record) (s : State) : Host.Outcome State Fault Refusal :=
  s.ctlEvent 15 r (withArgs (argArmCapture r) armCapture)

/-- DISARM_CAPTURE (R123). -/
def execDisarmCapture (r : Record) (s : State) : Host.Outcome State Fault Refusal :=
  s.ctlEvent 16 r (withArgs (argDisarmCapture r) disarmCapture)

/-- UNKNOWN_COMMAND_KIND (R138): the row of the records whose kind names no command, BAD_COMMAND whatever
the other bytes hold (R180). -/
def execUnknownCommandKind (r : Record) (s : State) : Host.Outcome State Fault Refusal :=
  s.event fun s => if s.ctlReady && !namesCommand r then some (s.badCommand r) else none

end Sys2Proof.Machine
end

