-- ==== Sys2Proof/Machine/Encoder.lean ====
section
/-! DEFINITION. The encoder inputs (R112, R117): the command ENCODER_CHANGE. -/

namespace Sys2Proof.Machine

/-- The place of a pair of levels (ENCA, ENCB) in the counting sequence (R112). -/
def quadrature (encA encB : Bool) : Nat :=
  match encA, encB with
  | false, false => 0
  | true, false => 1
  | true, true => 2
  | false, true => 3

/-- The steps forward along the sequence from the decoder state to a new pair. -/
def FBM.turn (f : FBM) (encA encB : Bool) : Nat :=
  (quadrature encA encB + 4 - quadrature f.encA f.encB) % 4

/-- The new pair becomes the decoder state, and the count follows (R112). -/
def FBM.decode (f : FBM) (encA encB : Bool) : FBM :=
  { f with
    encA := encA, encB := encB
    count :=
      match f.turn encA encB with
      | 1 => f.count + 1
      | 3 => f.count - 1
      | _ => f.count }

/-- A change of the encoder inputs (R112): a count with the deviation test of R114, or a phase error
(R117). -/
def State.encoderChanged (s : State) (a : Axis) (encA encB : Bool) : Option State :=
  let turn := (s.fbm a).turn encA encB
  let s := s.modFbm a fun f => f.decode encA encB
  match turn with
  | 0 => none
  | 2 => some (if s.monitored a then s.takeFault a .encoder .hard else s)
  | _ => some (s.testDeviation a)

/-- ENCODER_CHANGE (R112). While the RESET line is held the pair is only noted (R111). -/
def execEncoderChange (a : Axis) (encA encB : Bool) (s : State) :
    Host.Outcome State Fault Refusal :=
  if s.resetHeld then .next (s.modFbm a fun _ => .reset encA encB)
  else s.event fun s => s.encoderChanged a encA encB

end Sys2Proof.Machine
end

