-- ==== Sys2Proof/Machine/MotionEvents.lean ====
section
/-! DEFINITION. The timed events of the part: MG_STEP (R53, R70 to R72), PROFILE_PHASE_END (R54),
DWELL_EXPIRY (R61) and HOLDOFF_EXPIRY (R161). An expiry comes at its own time (log entry 5). -/

namespace Sys2Proof.Machine

/-- The position stands at the end of its range on the side of the motion (R70). -/
def atRangeEnd (positive : Bool) (p : Int) : Bool := if positive then p == posMax else p == posMin

/-- The reason of a soft limit or of the range end on a side (R70, R95). -/
def softReason (positive : Bool) : HaltReason := if positive then .softLimitPos else .softLimitNeg

/-- The range end (R70): the SEQ halts the axis, and the MG stands. -/
def State.rangeEnd (s : State) (a : Axis) (positive : Bool) : State :=
  (s.haltCause a (softReason positive) .hard false).modMg a MG.hardStop

/-- A step goes beyond the soft bound on the side of its motion (R72). -/
def crossesOut (c : AxisConfig) (positive : Bool) (old new : Int) : Bool :=
  c.softLimits && (if positive then old == c.hi && new == c.hi + 1
    else old == c.lo && new == c.lo - 1)

/-- What the step of an MG brings its SEQ (R52, R70): the MG's own event and the range end. Where a MOVE
lands on the end of the range there is no range end; where SETTLE lands there, the range end is taken in
place of the landing, and the HOME is aborted (log entry 21). DESIGN CHOICE (log entry 44): where the descent
of a reversal ends on the last position of the range, the new start of R57 comes before the range end, so
that the record of the halt carries the new start's velocity, and DIR has turned. -/
def State.takeStep (s : State) (a : Axis) (positive homing : Bool) (p : MG × MgEvent) : State :=
  let landed : Bool := p.2 == .targetReached
  let ended : Bool := atRangeEnd positive p.1.pos && (homing || !landed)
  let s := if ended && landed then s else s.takeMgEvent a p.2
  if ended then s.rangeEnd a positive else s

/-- One step of the commanded position (R53), with the tests of the event (log entry 14): position
components, watchers, what the MG reports, range end, soft-limit crossing, deviation. -/
def State.stepped (s : State) (a : Axis) : State :=
  let positive := (s.mg a).positive
  let old := (s.mg a).pos
  let homing := (s.seq a).homeActive
  let p := (s.mg a).step
  let s := s.modMg a fun _ => p.1
  let s := (s.followPosBlocks a).serveWatchers a
  let s := s.takeStep a positive homing p
  let s :=
    if !homing && crossesOut (s.cfg a) positive old p.1.pos then
      s.haltCause a (softReason positive) .soft false
    else s
  s.testDeviation a

/-- MG_STEP (R53): where the next event of the MG is a step. -/
def execMgStep (a : Axis) (s : State) : Host.Outcome State Fault Refusal :=
  s.event fun s => if (s.mg a).stepNext then some (s.stepped a) else none

/-- The end of a profile phase between steps (R54). -/
def State.phaseEnded (s : State) (a : Axis) : State :=
  let p := (s.mg a).endPhaseNow
  (s.modMg a fun _ => p.1).takeMgEvent a p.2

/-- PROFILE_PHASE_END (R54): where the next event of the MG is the end of a phase. -/
def execProfilePhaseEnd (a : Axis) (s : State) : Host.Outcome State Fault Refusal :=
  s.event fun s => if (s.mg a).phaseEndNext then some (s.phaseEnded a) else none

/-- The motion state after a DWELL: back from MG_CRUISE to MG_HOLD (R61). -/
def afterDwell (m : MotionState) : MotionState := if m = .cruise then .hold else m

/-- The dwell expiry time is reached (R61). -/
def State.dwellExpired (s : State) (a : Axis) : Option State :=
  match (s.mg a).goal with
  | .dwell t => some ((s.reachTime t).complete a afterDwell)
  | _ => none

/-- DWELL_EXPIRY (R61). -/
def execDwellExpiry (a : Axis) (s : State) : Host.Outcome State Fault Refusal :=
  s.event fun s => s.dwellExpired a

/-- The holdoff timer expires (R161). -/
def State.holdoffExpired (s : State) : Option State :=
  match s.moderator.timer with
  | some t => some { s.reachTime t with moderator := s.moderator.expire }
  | none => none

/-- HOLDOFF_EXPIRY (R161). -/
def execHoldoffExpiry (s : State) : Host.Outcome State Fault Refusal :=
  s.event State.holdoffExpired

end Sys2Proof.Machine
end

