-- ==== Sys2Proof/Machine/Resets.lean ====
section
/-! DEFINITION. The resets (R177, R134 and the reset rule of each block): POWER_ON, RESET_LINE,
RESET_RELEASE and the soft reset. -/

namespace Sys2Proof.Machine

/-- The levels of the input pins. -/
def State.pins (s : State) : Vector Bool 12 := s.lines.map fun l => l.pin

/-- The levels of the encoder inputs: the decoder state follows every change of them (R112). -/
def State.encPins (s : State) : Vector (Bool × Bool) 4 := s.axes.map fun x => (x.fbm.encA, x.fbm.encB)

/-- The values after power-on and the RESET line, at the levels found at the inputs; the queue of
waiting commands is not the part's. -/
def State.hardReset (s : State) (held : Bool) : State :=
  { State.afterReset s.pins s.encPins with pending := s.pending, resetHeld := held }

/-- The MG at a soft reset (R50): a hard stop without an event, with an empty watcher set. -/
def MG.softReset (m : MG) : MG := { m.hardStop with watchers := Vector.replicate 4 none }

/-- The SEQ at a soft reset (R11). -/
def Seq.softReset (q : Seq) (enabled : Bool) : Seq :=
  { q with sq := if enabled then .empty else .off, reason := none, window := [] }

/-- An axis at a soft reset (R11, R50, R111). -/
def AxisState.softReset (x : AxisState) : AxisState :=
  { x with
    seq := x.seq.softReset x.cfg.enabled
    mg := x.mg.softReset
    fbm := { x.fbm with tripped := false, enaDropped := false } }

/-- Recompute the four components of the direction blocks of an axis (R90). -/
def State.recomputeBlocks (a : Axis) (s : State) : State :=
  (s.recomputeLineBlocks a).recomputePosBlocks a

/-- The soft reset (R177 and the reset rule of each block). -/
def State.softReset (s : State) : State :=
  let s := { s.clearUses with
    dev := .off, enable := false, faultCode := .none, faultSource := .none, postReg := 0
    rings := Vector.replicate 5 .reset, reportAddr := 0, cpl := .reset, queue := .reset, owed := []
    claims := [], moderator := s.moderator.clear, cte := .idle
    axes := s.axes.map AxisState.softReset
    signals := Vector.replicate 16 .reset, overflowMask := 0, overflowTime := 0
    rdv := Vector.replicate 8 .reset, caps := Vector.replicate 4 .disarmed, outs := 0 }
  forEach allAxes State.recomputeBlocks s

/-- POWER_ON (R177). The level of the RESET pin is from outside and stays. -/
def execPowerOn (s : State) : Host.Outcome State Fault Refusal := .next (s.hardReset s.resetHeld)

/-- RESET_LINE (R134, R177): the RESET pin is held low, and released where `released` says so. -/
def execResetLine (released : Bool) (s : State) : Host.Outcome State Fault Refusal :=
  .next (s.hardReset (!released))

/-- RESET_RELEASE (R134): the RESET pin returns high after being held low. -/
def execResetRelease (s : State) : Host.Outcome State Fault Refusal :=
  .next (if s.resetHeld then s.hardReset false else s)

end Sys2Proof.Machine
end

