-- ==== Sys2Proof/Machine/Registers.lean ====
section
/-! DEFINITION. Writes to the register window (section 11.5, R182): CTRL (R171) with the enable (R165),
the drain (R173), the STOP_ALL requests (R109) and the soft reset; SETUP_LO and SETUP_HI (R163); POST
(R169); CACK (R157, R170); INTS (R162); and every other offset. -/

namespace Sys2Proof.Machine

/-! ### The enable and the drain -/

/-- A failed enable (R164, R165). -/
def State.failEnable (s : State) (c : FaultCode) (src : FaultSource) : State :=
  ({ s with dev := .off, enable := false }.recordFault c src).setDevice

/-- The setup block's address (R163). -/
def State.setupAddr (s : State) : BitVec 64 := s.setupHi ++ s.setupLo

/-- A write of ENABLE from 0 to 1 in DS_OFF (R165). -/
def State.enableOn (s : State) : State :=
  let s := { s with enable := true }.recordFault .none .none
  if s.setupAddr.toNat % 32 = 0 then { s with dev := .load } else s.failEnable .setupAlign .setup

/-- Step 2 of the drain (R48, R173). -/
def State.closeEntries (s : State) : State :=
  { s with
    rdv := s.rdv.map fun r => { r with state := .closed, members := 0, arrived := 0 }
    claims := s.claims.filter fun c => match c with
      | .fire _ => false
      | .axis _ => true }

/-- Step 4 of the drain, for one axis (R173, R151). -/
def State.drainWindow (a : Axis) (s : State) : State :=
  if (s.seq a).sq = .off then s
  else
    let p := s.discard a (s.inFlight a)
    p.1.owe (.drainFlush a p.2.2 p.2.1 s.time)

/-- Step 5 of the drain (R137, R147). -/
def State.drainCte (s : State) : State :=
  match s.cte with
  | .claim => { s with cte := .idle }
  | .barrier b => s.endBarrier b .draining 0xFF
  | .idle | .fetch => s

/-- Step 6 of the drain (R124). -/
def drainCap : CapUnit → CapUnit
  | .armed _ => .disarmed
  | c => c

/-- The drain event (R173). The record of an axis fetch in flight is passed with the discard of its
axis window. -/
def State.drainEvent (s : State) : State :=
  let s := { s with dev := .drain, enable := false }.closeEntries
  let s := forEach allAxes (fun a s => s.haltCause a .drain .soft true) s
  let s := (forEach allAxes State.drainWindow s).drainCte
  { s with caps := s.caps.map drainCap }

/-! ### CTRL (R171) -/

/-- The STOP_ALL request of a write of CTRL, if it carries one (R109). -/
def State.ctrlStop (s : State) (w : Word) : State :=
  if ctrlStopHard w then s.stopAllRequest .hard
  else if ctrlStopSoft w then s.stopAllRequest .soft
  else s

/-- The ENABLE field of a write of CTRL (R171). -/
def State.ctrlEnableField (s : State) (on : Bool) : State :=
  match s.dev, on with
  | .off, true => s.enableOn
  | .off, false => s
  | .load, _ => { s with enable := on }
  | .run, true => s
  | .run, false => s.drainEvent
  | .drain, _ => s
  | .fault, true => s
  | .fault, false => { s with enable := false }

/-- A write of CTRL (R171). -/
def State.ctrlWrite (s : State) (w : Word) : State :=
  if ctrlReset w then s.softReset else (s.ctrlStop w).ctrlEnableField (ctrlEnable w)

/-! ### The other registers -/

/-- A write of SETUP_LO (R163). -/
def State.setupLoWrite (s : State) (w : Word) : Option State :=
  if s.dev = .off then some { s with setupLo := w } else none

/-- A write of SETUP_HI (R163). -/
def State.setupHiWrite (s : State) (w : Word) : Option State :=
  if s.dev = .off then some { s with setupHi := w } else none

/-- The ring number of a write of POST. -/
def postRing (w : Word) : Nat := (w.extractLsb' 0 8).toNat
/-- The producer index of a write of POST. -/
def postIndex (w : Word) : Nat := (w.extractLsb' 16 16).toNat

/-- The RFU accepts a producer index (R169). -/
def Ring.accepts (r : Ring) (i : Nat) : Bool :=
  i < r.size && ringDist r.size r.cons r.prod ≤ ringDist r.size r.cons i

/-- The judgement of a write of POST in DS_RUN and DS_DRAIN (R169). -/
def State.judgePost (s : State) (w : Word) : State :=
  if h : postRing w < 5 then
    let r : RingNo := ⟨postRing w, h⟩
    if (s.ring r).accepts (postIndex w) then s.modRing r fun x => { x with prod := postIndex w }
    else s.recordFault .postRange (.ring r)
  else s.recordFault .postRange .none

/-- The bits of POST that section 11.5 defines: the ring number and the producer index. -/
def postBits : Word := 0xFFFF00FF#32

/-- A write of POST (R169); the register keeps the value of its two fields in every case, and the bits
between them are ignored (R182). -/
def State.postWrite (s : State) (w : Word) : State :=
  let s := { s with postReg := w &&& postBits }
  if s.active then s.judgePost w else s

/-- The host consumer index of a write of CACK. -/
def cackIndex (w : Word) : Nat := (w.extractLsb' 0 16).toNat

/-- The CU accepts a host consumer index (R157, R170). -/
def CplRing.accepts (c : CplRing) (i : Nat) : Bool :=
  i < 2 * c.size && (i + 2 * c.size - c.host) % (2 * c.size) ≤ c.outstanding

/-- A write of CACK (R157, R170). -/
def State.cackWrite (s : State) (w : Word) : Option State :=
  if s.active && s.cpl.accepts (cackIndex w) then
    some { s with cpl := { s.cpl with host := cackIndex w } }
  else none

/-- A write of INTS sets a cause to 1 (R162). -/
def setsCause (w : Word) : Bool := w.getLsbD 8 || w.getLsbD 9 || w.getLsbD 10

/-- A write of INTS (R162). -/
def State.intsWrite (s : State) (w : Word) : Option State :=
  if setsCause w then some { s with moderator := s.moderator.acknowledge w } else none

/-- A write to the register at an offset (R182): the read-only registers and the offsets from 20h on
ignore it. DESIGN CHOICE (log entry 43): so does an offset below 20h that is no register's. -/
def State.writeReg (s : State) (offset w : Word) : Option State :=
  match offset.toNat with
  | 0x04 => some (s.ctrlWrite w)
  | 0x0C => s.setupLoWrite w
  | 0x10 => s.setupHiWrite w
  | 0x14 => some (s.postWrite w)
  | 0x18 => s.cackWrite w
  | 0x1C => s.intsWrite w
  | _ => none

/-! ### Commands -/

/-- SOFT_RESET (R177): a write of CTRL with RESET set. -/
def execSoftReset (w : Word) (s : State) : Host.Outcome State Fault Refusal :=
  s.event fun s => some (s.ctrlWrite (w ||| 2#32))

/-- ENABLE_SET (R165, R171): a write of CTRL with ENABLE 1 and without RESET. -/
def execEnableSet (w : Word) (s : State) : Host.Outcome State Fault Refusal :=
  s.event fun s => some (s.ctrlWrite ((w ||| 1#32) &&& ~~~2#32))

/-- ENABLE_CLEAR (R171): a write of CTRL with ENABLE 0 and without RESET. -/
def execEnableClear (w : Word) (s : State) : Host.Outcome State Fault Refusal :=
  s.event fun s => some (s.ctrlWrite (w &&& ~~~3#32))

/-- STOP_ALL_SOFT (R109): a write of CTRL with STOP_ALL_SOFT alone of its three requests. -/
def execStopAllSoft (w : Word) (s : State) : Host.Outcome State Fault Refusal :=
  s.event fun s => some (s.ctrlWrite ((w ||| 4#32) &&& ~~~10#32))

/-- STOP_ALL_HARD (R109): a write of CTRL with STOP_ALL_HARD and without RESET. -/
def execStopAllHard (w : Word) (s : State) : Host.Outcome State Fault Refusal :=
  s.event fun s => some (s.ctrlWrite ((w ||| 8#32) &&& ~~~2#32))

/-- SETUP_LO_WRITE (R163). -/
def execSetupLoWrite (w : Word) (s : State) : Host.Outcome State Fault Refusal :=
  s.event fun s => s.setupLoWrite w

/-- SETUP_HI_WRITE (R163). -/
def execSetupHiWrite (w : Word) (s : State) : Host.Outcome State Fault Refusal :=
  s.event fun s => s.setupHiWrite w

/-- POST (R169). -/
def execPost (w : Word) (s : State) : Host.Outcome State Fault Refusal :=
  s.event fun s => some (s.postWrite w)

/-- CACK (R170). -/
def execCack (w : Word) (s : State) : Host.Outcome State Fault Refusal :=
  s.event fun s => s.cackWrite w

/-- INTS_ACKNOWLEDGE (R162). -/
def execIntsAcknowledge (w : Word) (s : State) : Host.Outcome State Fault Refusal :=
  s.event fun s => s.intsWrite w

/-- REGISTER_WRITE (R182): a write at any offset; IDENT, STATUS and the undefined offsets ignore
it. -/
def execRegisterWrite (offset w : Word) (s : State) : Host.Outcome State Fault Refusal :=
  s.event fun s => s.writeReg offset w

end Sys2Proof.Machine
end

