-- ==== Sys2Proof/Machine/Transfers.lean ====
section
/-! DEFINITION. The ends of the transfers of the bus-master port: FETCH_COMPLETION (R5, R167),
SETUP_READ_COMPLETION (R164, R166), CPL_WRITE_COMPLETION (R157), REPORT_WRITE_COMPLETION (R168) and
BUS_FAULT (R175). A completion of a transfer that is not in flight changes nothing (log entry 4). -/

namespace Sys2Proof.Machine

/-! ### The fetch completion of an axis ring (R5, R8, R167) -/

/-- The entry that a record joins the window as (R5). -/
def freshEntry (r : Record) (seq : BitVec 16) : Entry := ⟨decodeSegment r, seq, .pending .notArmed⟩

/-- The record of a fetch not marked for discard is taken and joins the window (R5). -/
def State.joinRecord (s : State) (a : Axis) (r : Record) : State :=
  let e := freshEntry r (s.ring (axisRing a)).seqNo
  let s := s.modRing (axisRing a) fun x => { x with fetch := .idle }.pass 1
  let s := (s.barrierPass a).raiseUse e.seg.bankUse
  let s := s.modSeq a fun q => { q with window := q.window ++ [e] }
  if (s.seq a).sq = .empty then s.arm a else s

/-- The completion of a fetch on an axis ring (R8, R167). -/
def State.fetchCompleted (s : State) (a : Axis) (r : Record) : Option State :=
  match (s.ring (axisRing a)).fetch with
  | .idle => none
  | .discard => some (s.modRing (axisRing a) fun x => { x with fetch := .idle })
  | .inFlight => some (s.joinRecord a r)

/-- FETCH_COMPLETION (R5). -/
def execFetchCompletion (a : Axis) (r : Record) (s : State) : Host.Outcome State Fault Refusal :=
  s.event fun s => s.fetchCompleted a r

/-! ### The setup block (R163, R164, R166) -/

/-- A ring descriptor (section 11.4). -/
structure RingDesc where
  base  : BitVec 64
  size  : Nat
  start : Nat
deriving DecidableEq, Repr

/-- The items of the setup block (R163). -/
structure Setup where
  version   : Word
  threshold : Nat
  holdoff   : Nat
  report    : BitVec 64
  /-- The six ring descriptors, A0 to A3, CTL and CPL. -/
  rings     : Vector RingDesc 6
deriving DecidableEq, Repr

/-- The ring descriptor at an offset of the block (section 11.4). -/
def descAt (b : SetupBlock) (o : Nat) : RingDesc :=
  { base := b.extractLsb' (8 * o) 64, size := (b.extractLsb' (8 * o + 64) 16).toNat
    start := (b.extractLsb' (8 * o + 80) 16).toNat }

/-- The items of a setup block (section 11.4). -/
def readSetup (b : SetupBlock) : Setup :=
  { version := b.extractLsb' 0 32, threshold := (b.extractLsb' 32 8).toNat
    holdoff := (b.extractLsb' 48 16).toNat, report := b.extractLsb' 64 64
    rings := #v[descAt b 16, descAt b 32, descAt b 48, descAt b 64, descAt b 80, descAt b 96] }

/-- The sizes a ring may have (R163). -/
def ringSizes : List Nat := [16, 32, 64, 128, 256, 512, 1024]

/-- An area lies within the 64-bit address space from a base that is a multiple of 32 (R164). -/
def areaOk (base : BitVec 64) (len : Nat) : Bool :=
  base.toNat % 32 == 0 && base.toNat + len ≤ 2 ^ 64

/-- Check 2 of R164 for one ring. -/
def RingDesc.check (d : RingDesc) : Option FaultCode :=
  if !ringSizes.contains d.size then some .setupSize
  else if d.size ≤ d.start then some .setupIndex
  else if !areaOk d.base (32 * d.size) then some .setupAlign
  else none

/-- The fault source of an area, in the order A0 to A3, CTL, CPL, REPORT (R164). -/
def areaSource (i : Nat) : FaultSource :=
  if h : i < 5 then .ring ⟨i, h⟩ else if i = 5 then .cpl else .report

/-- The seven areas: start and length in bytes (R164). -/
def Setup.areas (x : Setup) : List (Nat × Nat) :=
  x.rings.toList.map (fun d => (d.base.toNat, 32 * d.size)) ++ [(x.report.toNat, 32)]

/-- Two areas overlap. -/
def overlap (p q : Nat × Nat) : Bool := p.1 < q.1 + q.2 && q.1 < p.1 + p.2

/-- Areas `i` and `j`, `i` before `j`, overlap. -/
def overlapAt (l : List (Nat × Nat)) (i j : Nat) : Bool :=
  i < j && overlap (l.getD i (0, 0)) (l.getD j (0, 0))

/-- The later area of the first overlapping pair, the pairs being taken by their later area. -/
def overlapByLater (l : List (Nat × Nat)) : Option Nat :=
  (List.range 7).find? fun j => (List.range 7).any fun i => overlapAt l i j

/-- The later area of the first overlapping pair, the pairs being taken by their earlier area. -/
def overlapByEarlier (l : List (Nat × Nat)) : Option Nat :=
  (List.range 7).findSome? fun i => (List.range 7).find? fun j => overlapAt l i j

/-- The later area of the first overlapping pair found (R164); which pair is found first is open
where the two orders differ (log entry 8). -/
def overlapFound (l : List (Nat × Nat)) : Option Nat :=
  if overlapByLater l = overlapByEarlier l then overlapByLater l
  else if Config.overlapByLaterArea then overlapByLater l
  else overlapByEarlier l

/-- The first failure of check 2 of R164, the rings in order. -/
def checkRings : Nat → List RingDesc → Option (FaultCode × FaultSource)
  | _, [] => none
  | i, d :: rest =>
    match d.check with
    | some c => some (c, areaSource i)
    | none => checkRings (i + 1) rest

/-- The checks of R164 in order: the first failure. -/
def Setup.check (x : Setup) : Option (FaultCode × FaultSource) :=
  if x.version ≠ Config.ident then some (.setupVersion, .setup)
  else
    match checkRings 0 x.rings.toList with
    | some f => some f
    | none =>
      if !areaOk x.report 32 then some (.setupAlign, .report)
      else
        match overlapFound x.areas with
        | some j => some (.setupOverlap, areaSource j)
        | none =>
          if 1 ≤ x.threshold && x.threshold ≤ 255 then none else some (.setupIrq, .setup)

/-- A submission ring at the entry into DS_RUN, its report write begun (R166). -/
def RingDesc.load (d : RingDesc) : Ring :=
  Ring.dueReport ⟨d.base, d.size, d.start, d.start, BitVec.ofNat 16 d.start, .idle, .idle⟩

/-- The loads of the entry into DS_RUN (R166). -/
def State.loadSetup (s : State) (x : Setup) : State :=
  let c := x.rings.get 5
  { s with
    dev := .run
    rings := #v[(x.rings.get 0).load, (x.rings.get 1).load, (x.rings.get 2).load,
      (x.rings.get 3).load, (x.rings.get 4).load]
    reportAddr := x.report, cpl := ⟨c.base, c.size, c.start, c.start⟩
    queue := .reset, owed := [], claims := [], overflowMask := 0
    moderator := s.moderator.enter x.threshold x.holdoff, cte := .idle }

/-- The axis stands in SQ_EMPTY. -/
def State.isEmpty (s : State) (a : Axis) : Bool := (s.seq a).sq == .empty

/-- The stop-all test at the entry into DS_RUN (R110); the axes are still. -/
def State.entryStop (s : State) : State :=
  if s.stopLineActive then
    forEach allAxes
      (fun a s => if s.isEmpty a then s.haltCause a .stopAll .soft true else s)
      (s.breakCommon (axisSet s.isEmpty))
  else s

/-- The entry into DS_RUN (R166), with the test of each Feedback Monitor (R114). DESIGN CHOICE (log entry
42): the stop-all halts of R110 all come before the tests of the deviation. -/
def State.enterRun (s : State) (x : Setup) : State :=
  forEach allAxes (fun a s => s.testDeviation a) (s.loadSetup x).entryStop

/-- The read completion of the setup block (R164, R165). -/
def State.setupRead (s : State) (b : SetupBlock) : Option State :=
  if s.dev ≠ .load then none
  else if !s.enable then some { s with dev := .off }
  else
    match (readSetup b).check with
    | some f => some (s.failEnable f.1 f.2)
    | none => some (s.enterRun (readSetup b))

/-- SETUP_READ_COMPLETION (R164). -/
def execSetupReadCompletion (b : SetupBlock) (s : State) : Host.Outcome State Fault Refusal :=
  s.event fun s => s.setupRead b

/-! ### Write completions -/

/-- CPL_WRITE_COMPLETION (R157): the frozen write of a failed transfer does not complete (R159). -/
def execCplWriteCompletion (s : State) : Host.Outcome State Fault Refusal :=
  s.event fun s =>
    if s.active && s.queue.writing.isSome then some s.completeCplWrite else none

/-- REPORT_WRITE_COMPLETION (R168). -/
def execReportWriteCompletion (r : RingNo) (s : State) : Host.Outcome State Fault Refusal :=
  s.event fun s =>
    if (s.ring r).report != .idle then some (s.modRing r Ring.completeReport) else none

/-! ### The bus fault (R175) -/

/-- The transfer is in flight. -/
def State.inProgress (s : State) (t : Transfer) : Bool :=
  match t with
  | .setupRead => s.dev == .load
  | .fetch r => s.active && (s.ring r).fetch != .idle
  | .cplWrite => s.active && s.queue.writing.isSome
  | .report r => s.active && (s.ring r).report != .idle

/-- The fault code of a transfer that failed (R172). -/
def Transfer.code (t : Transfer) : FaultCode :=
  match t with
  | .setupRead | .fetch _ => .busRead
  | .cplWrite | .report _ => .busWrite

/-- The fault source of a transfer that failed (R159, R165, R167, R168). -/
def Transfer.source (t : Transfer) : FaultSource :=
  match t with
  | .setupRead => .setup
  | .fetch r | .report r => .ring r
  | .cplWrite => .cpl

/-- A ring whose transfers are abandoned (R175). -/
def Ring.abandon (r : Ring) : Ring := { r with fetch := .idle, report := .idle }

/-- The queue as a bus fault freezes it: the place of a write that did not fail itself returns to the
head of the write order (R159). -/
def Queue.freeze (q : Queue) (failed : Bool) : Queue :=
  match q.writing with
  | some c => if failed then q else { q with writing := none, filled := c :: q.filled }
  | none => q

/-- The CTE at a bus fault (R137); a waiting BARRIER is ended by the BUS halts. -/
def cteFault : Cte → Cte
  | .barrier b => .barrier b
  | .idle | .claim | .fetch => .idle

/-- A bus fault (R175). -/
def State.busFault (s : State) (t : Transfer) : State :=
  let s := { s with
    dev := .fault, rings := s.rings.map Ring.abandon, queue := s.queue.freeze (t == Transfer.cplWrite)
    cte := cteFault s.cte }.recordFault (Transfer.code t) (Transfer.source t)
  (s.haltAll .bus .soft).setDevice

/-- BUS_FAULT (R175). -/
def execBusFault (t : Transfer) (s : State) : Host.Outcome State Fault Refusal :=
  s.event fun s => if s.inProgress t then some (s.busFault t) else none

end Sys2Proof.Machine
end

