-- ==== Sys2Proof/Machine/Dispatch.lean ====
section
/-! DEFINITION. The dispatch of a command to its meaning, one arm per constructor of `Instr`. -/

namespace Sys2Proof.Machine

def exec (i : Instr) (s : State) : Host.Outcome State Fault Refusal :=
  match i with
  | .powerOn => Sys2Proof.Machine.execPowerOn s
  | .resetLine released => Sys2Proof.Machine.execResetLine released s
  | .softReset w => Sys2Proof.Machine.execSoftReset w s
  | .enableSet w => Sys2Proof.Machine.execEnableSet w s
  | .enableClear w => Sys2Proof.Machine.execEnableClear w s
  | .stopAllSoft w => Sys2Proof.Machine.execStopAllSoft w s
  | .stopAllHard w => Sys2Proof.Machine.execStopAllHard w s
  | .setupLoWrite w => Sys2Proof.Machine.execSetupLoWrite w s
  | .setupHiWrite w => Sys2Proof.Machine.execSetupHiWrite w s
  | .post w => Sys2Proof.Machine.execPost w s
  | .cack w => Sys2Proof.Machine.execCack w s
  | .intsAcknowledge w => Sys2Proof.Machine.execIntsAcknowledge w s
  | .registerWrite offset w => Sys2Proof.Machine.execRegisterWrite offset w s
  | .rawChange line high => Sys2Proof.Machine.execRawChange line high s
  | .filterExpiry line => Sys2Proof.Machine.execFilterExpiry line s
  | .encoderChange axis encA encB => Sys2Proof.Machine.execEncoderChange axis encA encB s
  | .mgStep axis => Sys2Proof.Machine.execMgStep axis s
  | .profilePhaseEnd axis => Sys2Proof.Machine.execProfilePhaseEnd axis s
  | .dwellExpiry axis => Sys2Proof.Machine.execDwellExpiry axis s
  | .holdoffExpiry => Sys2Proof.Machine.execHoldoffExpiry s
  | .fetchCompletion axis record => Sys2Proof.Machine.execFetchCompletion axis record s
  | .setupReadCompletion block => Sys2Proof.Machine.execSetupReadCompletion block s
  | .cplWriteCompletion => Sys2Proof.Machine.execCplWriteCompletion s
  | .reportWriteCompletion ring => Sys2Proof.Machine.execReportWriteCompletion ring s
  | .busFault transfer => Sys2Proof.Machine.execBusFault transfer s
  | .configAxis record => Sys2Proof.Machine.execConfigAxis record s
  | .configLine record => Sys2Proof.Machine.execConfigLine record s
  | .setPosition record => Sys2Proof.Machine.execSetPosition record s
  | .setOutputs record => Sys2Proof.Machine.execSetOutputs record s
  | .barrier record => Sys2Proof.Machine.execBarrier record s
  | .queryAxis record => Sys2Proof.Machine.execQueryAxis record s
  | .queryLines record => Sys2Proof.Machine.execQueryLines record s
  | .writeBank record => Sys2Proof.Machine.execWriteBank record s
  | .postSignal record => Sys2Proof.Machine.execPostSignal record s
  | .clearSignal record => Sys2Proof.Machine.execClearSignal record s
  | .openRendezvous record => Sys2Proof.Machine.execOpenRendezvous record s
  | .closeRendezvous record => Sys2Proof.Machine.execCloseRendezvous record s
  | .halt record => Sys2Proof.Machine.execHalt record s
  | .resume record => Sys2Proof.Machine.execResume record s
  | .armCapture record => Sys2Proof.Machine.execArmCapture record s
  | .disarmCapture record => Sys2Proof.Machine.execDisarmCapture record s
  | .unknownCommandKind record => Sys2Proof.Machine.execUnknownCommandKind record s
  | .resetRelease => Sys2Proof.Machine.execResetRelease s

end Sys2Proof.Machine
end

