-- ==== Sys2Proof/Safety.lean ====
section
/-! DEFINITION. What the statements say about states: the invariants the manual gives the part's queue,
tables, windows and axes, and the parts of the state that a command leaves alone. -/

namespace Sys2Proof.Safety

open Sys2Proof.Machine

/-! ### Invariants -/

/-- Occupied plus reserved holding places never exceed 8 (R152). -/
def queueOk (s : State) : Prop := s.queue.held ≤ placeCount

/-- A signal count is never above 15 (R32). -/
def signalsOk (s : State) : Prop := ∀ n, (s.signal n).count ≤ signalMax

/-- What R40 says of an entry: the arrived set is a subset of the members; in CLOSED both are empty; in
BROKEN the arrived set is. -/
def entryOk (r : Rdv) : Prop :=
  r.arrived &&& ~~~r.members = 0 ∧ (r.state ≠ .opened → r.arrived = 0) ∧
    (r.state = .closed → r.members = 0)

/-- Every rendezvous entry is as R40 says. -/
def rdvOk (s : State) : Prop := ∀ e, entryOk (s.entry e)

/-- The records that a fetch state stands for. -/
def fetchCount : FetchState → Nat
  | .inFlight => 1
  | .idle | .discard => 0

/-- The record of a fetch in flight on an axis ring, which will join the window (R7). -/
def coming (s : State) (a : Axis) : Nat := fetchCount (s.ring (axisRing a)).fetch

/-- The window of an axis never holds more than four entries, a record in flight included (R4, R7), and
only the first may be ACTIVE (R4). -/
def windowOk (s : State) : Prop :=
  ∀ a, (s.seq a).window.length + coming s a ≤ 4 ∧ ∀ e ∈ (s.seq a).window.tail, e.isPending = true

/-- An axis with an active segment is SQ_RUN (R9). -/
def activeOk (s : State) : Prop := ∀ a, (s.seq a).activeEntry ≠ none → (s.seq a).sq = .run

/-- An axis in SQ_HALTED (R101) or in SQ_OFF has velocity 0. -/
def stillOk (s : State) : Prop :=
  ∀ a, (s.seq a).sq = .halted ∨ (s.seq a).sq = .off → (s.mg a).motion = .still

/-- An entry is PENDING and names a bank in use of its kind. -/
def usesBank (b : BankNo) (e : Entry) : Bool := e.isPending && e.seg.bankUse == some b

/-- The PENDING entries of a kind that uses a bank which name a bank, over all four axes (R75). -/
def pendingUses (s : State) (b : BankNo) : Nat :=
  (s.seq 0).window.countP (usesBank b) + (s.seq 1).window.countP (usesBank b)
    + (s.seq 2).window.countP (usesBank b) + (s.seq 3).window.countP (usesBank b)

/-- A bank's use count always equals that number (R75). -/
def usesOk (s : State) : Prop := ∀ b, (s.bank b).uses = pendingUses s b

/-- The invariant of the part. -/
structure Inv (s : State) : Prop where
  queue : queueOk s
  signals : signalsOk s
  rdv : rdvOk s
  window : windowOk s
  active : activeOk s
  still : stillOk s
  uses : usesOk s

/-! ### What is left alone -/

/-- The state that nothing but a write of its own register, a command of its own or a reset changes. -/
structure Kept where
  pending : List Instr
  time : Time
  resetHeld : Bool
  enable : Bool
  faultCode : FaultCode
  faultSource : FaultSource
  setupLo : Word
  setupHi : Word
  postReg : Word
  reportAddr : BitVec 64
  lines : Vector LineState 12
  cfgs : Axis → AxisConfig
  encoders : Axis → Word × Bool × Bool
  profiles : BankNo → Profile × Bool

/-- That part of a state. -/
def kept (s : State) : Kept :=
  { pending := s.pending, time := s.time, resetHeld := s.resetHeld, enable := s.enable
    faultCode := s.faultCode, faultSource := s.faultSource, setupLo := s.setupLo
    setupHi := s.setupHi, postReg := s.postReg, reportAddr := s.reportAddr, lines := s.lines
    cfgs := s.cfg, encoders := fun a => ((s.fbm a).count, (s.fbm a).encA, (s.fbm a).encB)
    profiles := fun b => ((s.bank b).profile, (s.bank b).written) }

/-! ### Groups of commands -/

/-- The commands that give the part its values after power-on and the RESET line. -/
def isHardReset : Instr → Bool
  | .powerOn | .resetLine _ | .resetRelease => true
  | _ => false

/-- The sixteen commands of the CTL ring, in the order of their kind codes 1 to 16 (section 11.2): the
command of a record, the offset after the last byte its kind lists, and the number of codes that its byte at
offset 4 has (an axis, a line, a set, a bank, a signal, an entry or a unit). QUERY_LINES lists no byte. -/
def ctlRows (r : Record) : List (Instr × Nat × Nat) :=
  [(.configAxis r, 32, 4), (.configLine r, 10, 12), (.setPosition r, 12, 4), (.setOutputs r, 6, 16),
   (.barrier r, 5, 16), (.queryAxis r, 6, 4), (.queryLines r, 4, 256), (.writeBank r, 24, 8),
   (.postSignal r, 6, 16), (.clearSignal r, 5, 16), (.openRendezvous r, 6, 8),
   (.closeRendezvous r, 5, 8), (.halt r, 6, 4), (.resume r, 6, 4), (.armCapture r, 9, 4),
   (.disarmCapture r, 5, 4)]

/-- The sixteen commands of the CTL ring that a record can be taken as. -/
def ctlCommands (r : Record) : List Instr := (ctlRows r).map (·.1)

/-- The axes that take a halt event at a halt cause (R97). -/
def live (s : State) (a : Axis) : Prop :=
  (s.seq a).sq = .empty ∨ (∃ c, (s.seq a).sq = .wait c) ∨ (s.seq a).sq = .run

/-- The state of the part after power-on or the RESET line, apart from the levels at its inputs and the
queue of waiting commands (R177 and the reset rule of each block; log entry 2 for the threshold and the
holdoff, and for the indices and addresses of the rings, of CPL and of the report). -/
structure AfterReset (t : State) : Prop where
  device : t.dev = .off ∧ t.enable = false ∧ t.faultCode = .none ∧ t.faultSource = .none
  registers : t.setupLo = 0 ∧ t.setupHi = 0 ∧ t.postReg = 0 ∧ t.time = 0
  quiet : t.queue = .reset ∧ t.owed = [] ∧ t.claims = [] ∧ t.cte = .idle ∧ t.irq = false
  transfers : (∀ r, t.ring r = .reset) ∧ t.cpl = .reset ∧ t.reportAddr = 0 ∧ t.moderator = .reset
  axes : ∀ a, (t.seq a).sq = .off ∧ (t.seq a).reason = none ∧ (t.seq a).window = [] ∧
    (∀ p, (t.seq a).blocked p = false) ∧ t.cfg a = .reset ∧ t.ena a = false
  motion : ∀ a, (t.mg a).pos = 0 ∧ (t.mg a).motion = .still ∧ (t.mg a).velocity = 0 ∧
    (t.mg a).goal = .none ∧ (t.mg a).profile = .reset ∧ t.dirPin a = true ∧ ∀ b, (t.mg a).watchers.get b = none
  feedback : ∀ a, (t.fbm a).count = 0 ∧ (t.fbm a).ref = 0 ∧ (t.fbm a).homeCount = 0 ∧
    (t.fbm a).tripped = false ∧ (t.fbm a).enaDropped = false
  tables : (∀ b, t.bank b = .reset) ∧ (∀ n, t.signal n = .reset) ∧ t.overflowMask = 0 ∧
    (∀ e, t.entry e = .reset) ∧ (∀ u, t.cap u = .disarmed) ∧ t.outs = 0
  lines : ∀ l, t.line l = .reset (t.line l).pin

/-! ### The form of a command's outcome -/

/-- What stands after a CTL command that ends at its execution: `s` as the command is taken, `t` what
its effect makes of the state, `ans` its answer (R136, R138, R139). -/
def commandEnd (s t : State) (r : Record) (ans : Answer) : State :=
  (t.serve.endCommand (s.ring ctl).seqNo (ctlTag r) (ctlNotify r) ans).finish

/-- A CTL record can be taken: the RESET line is not held and the fetch for the CTE is in flight
(R136). -/
def takes (s : State) : Prop := s.resetHeld = false ∧ s.ctlReady = true

/-- A CTL record can be taken, and its kind byte holds `k` (R138, R180). -/
def takesKind (s : State) (r : Record) (k : Byte) : Prop := takes s ∧ kindByte r = k

end Sys2Proof.Safety
end

