-- ==== Sys2Proof/Certificates/Slice0/Obligations.lean ====
section
/-! DEFINITION. The statements about the model, for the provers. A statement whose docstring names a log
entry rests on that choice of the model's. -/

open Sys2Proof Sys2Proof.Machine Sys2Proof.Safety

/-! ### The machine as a whole -/

/-- A step takes the command at the front of the queue and answers what `exec` answers for it, the rest of
the queue waiting. -/
def Obligations.StepRunsFrontCommand : Prop :=
  ∀ (s : State) (c : Instr) (rest : List Instr),
    step { s with pending := c :: rest } = exec c { s with pending := rest }

/-- Where no command is waiting a step is one microsecond of the Timebase (the model's choice, log entry
3): every motion goes on along its profile by the distance of log entry 6, that of one microsecond at the speed
rounded down and the present rate, which passes neither the next step nor the next end of a phase; while the
RESET line is held nothing happens. -/
def Obligations.IdleStepIsOneMicrosecond : Prop :=
  (∀ s : State, s.pending = [] → ∃ t, step s = .next t ∧
    (s.resetHeld = true → t = s) ∧
    (s.resetHeld = false → t.time = s.time + 1 ∧
      (∀ a, t.seq a = s.seq a ∧ t.cfg a = s.cfg a ∧ t.fbm a = s.fbm a ∧ t.mg a = (s.mg a).creep) ∧
      { t with time := s.time, axes := s.axes } = s)) ∧
  ∀ m : MG,
    (m.motion = .still → m.creep = m) ∧
    (m.motion ≠ .still →
      let rate : Rat := match m.motion with
        | .accel => (m.profile.accel : Rat)
        | .decel | .stopRamp => -(m.rate : Rat)
        | _ => 0
      let free : Rat := max 0 ((speedFloor m.speedSq : Rat) / 1000000 + rate / 2000000000000)
      let toStep : Rat := min free (max 0 (1 - m.frac))
      let y : Rat := match m.phaseEnd with
        | some z => min toStep (max 0 z)
        | none => toStep
      m.creep = { m with speedSq := m.speedAfter y, frac := m.frac + y } ∧ 0 ≤ y ∧
      (m.frac ≤ 1 → m.frac + y ≤ 1) ∧ ∀ z, m.phaseEnd = some z → 0 ≤ z → y ≤ z)

/-- Every command is answered with a next state, whatever the state: the manual gives each an effect, or
none; and none changes the queue of the commands that wait behind it. -/
def Obligations.EveryCommandCompletes : Prop :=
  ∀ (c : Instr) (s : State), ∃ t, exec c s = .next t ∧ t.pending = s.pending

/-- The invariant of the part, kept by every step from every state: never more than eight places in use
(R152), signal counts within 15 (R32), rendezvous entries as R40 says, windows of at most four entries of
which only the first is ACTIVE (R4), an active segment only in SQ_RUN (R9), velocity 0 in SQ_HALTED (R101)
and SQ_OFF, and use counts equal to the PENDING entries that name the bank (R75). -/
def Obligations.StepKeepsTheInvariant : Prop :=
  ∀ s t : State, Safety.Inv s → step s = .next t → Safety.Inv t

/-- The state after reset has the invariant. -/
def Obligations.ResetHasTheInvariant : Prop := Safety.Inv State.reset

/-- The configuration of an axis changes at CONFIG_AXIS only, that of a line at CONFIG_LINE only (its levels
at the events of its filter besides), and the values of a bank at WRITE_BANK only; power-on and the RESET
line apart (R140, R125, R75). -/
def Obligations.ConfigurationHasOneWriter : Prop :=
  ∀ (c : Instr) (s t : State), exec c s = .next t → isHardReset c = false →
    ((∀ r, c ≠ .configAxis r) → ∀ a, t.cfg a = s.cfg a) ∧
    ((∀ r, c ≠ .writeBank r) → ∀ b, (t.bank b).profile = (s.bank b).profile ∧
      (t.bank b).written = (s.bank b).written) ∧
    ((∀ r, c ≠ .configLine r) → (∀ l h, c ≠ .rawChange l h) → (∀ l, c ≠ .filterExpiry l) →
      ∀ l, t.line l = s.line l) ∧
    ((∀ r, c ≠ .configLine r) → s.resetHeld = false → ∀ l, (t.line l).activeLow = (s.line l).activeLow ∧
      (t.line l).filterTime = (s.line l).filterTime ∧ (t.line l).stopAll = (s.line l).stopAll)

/-! ### Resets -/

/-- Power-on, the RESET line and its release set every block to the values of its reset rule (R177, R11,
R50, R111, R125; log entry 2 for the items that a setup block loads); the levels found at the input pins and
the encoder inputs stand, and the RESET pin is as the command leaves it (log entries 9 and 37). -/
def Obligations.HardResetsSetTheResetValues : Prop :=
  ∀ s : State,
    (∃ t, exec .powerOn s = .next t ∧ AfterReset t ∧ t.resetHeld = s.resetHeld ∧
      (∀ l, (t.line l).pin = (s.line l).pin) ∧
      ∀ a, (t.fbm a).encA = (s.fbm a).encA ∧ (t.fbm a).encB = (s.fbm a).encB) ∧
    (∀ released, ∃ t, exec (.resetLine released) s = .next t ∧ AfterReset t ∧
      t.resetHeld = !released ∧ (∀ l, (t.line l).pin = (s.line l).pin) ∧
      ∀ a, (t.fbm a).encA = (s.fbm a).encA ∧ (t.fbm a).encB = (s.fbm a).encB) ∧
    (s.resetHeld = true → ∃ t, exec .resetRelease s = .next t ∧ AfterReset t ∧
      t.resetHeld = false ∧ (∀ l, (t.line l).pin = (s.line l).pin) ∧
      ∀ a, (t.fbm a).encA = (s.fbm a).encA ∧ (t.fbm a).encB = (s.fbm a).encB) ∧
    (s.resetHeld = false → exec .resetRelease s = .next s)

/-- A soft reset (R177, R11, R50, R75, R90, R111): the device-level state is cleared, every axis stands
still in SQ_EMPTY or SQ_OFF with an empty window and recomputed direction blocks, the tables, the capture
units and the outputs are cleared, and so are the rings, their reports and CPL, whose host index CACK then
reads as 0 (R182; log entry 2 for what a setup block loads); positions, encoder counts and references, the
configuration of axes and lines, the values of the banks, the setup address and the Timebase are kept. -/
def Obligations.SoftResetClearsAndKeeps : Prop :=
  ∀ (s : State) (w : Word), s.resetHeld = false → ∃ t, exec (.softReset w) s = .next t ∧
    (t.dev = .off ∧ t.enable = false ∧ t.faultCode = .none ∧ t.faultSource = .none ∧ t.postReg = 0 ∧
      t.queue = .reset ∧ t.owed = [] ∧ t.claims = [] ∧ t.cte = .idle ∧ t.irq = false ∧
      t.moderator.count = 0 ∧ t.moderator.timer = none) ∧
    ((∀ r, t.ring r = .reset) ∧ t.cpl = .reset ∧ t.reportAddr = 0 ∧ t.cplPort = none ∧
      (∀ r, t.reportPort r = none) ∧ t.readReg 0x18#32 = 0 ∧ t.readReg 0x14#32 = 0) ∧
    (∀ a, (t.seq a).sq = (if (s.cfg a).enabled then .empty else .off) ∧ (t.seq a).reason = none ∧
      (t.seq a).window = [] ∧ (t.seq a).lineNeg = s.levelOf (s.cfg a).limitNeg ∧
      (t.seq a).linePos = s.levelOf (s.cfg a).limitPos ∧
      (t.seq a).posNeg = beyondNeg (s.cfg a) (s.mg a).pos ∧
      (t.seq a).posPos = beyondPos (s.cfg a) (s.mg a).pos) ∧
    (∀ a, (t.mg a).motion = .still ∧ (t.mg a).speedSq = 0 ∧ (t.mg a).goal = .none ∧
      (t.mg a).pos = (s.mg a).pos ∧ (t.mg a).profile = (s.mg a).profile ∧
      ∀ b, (t.mg a).watchers.get b = none) ∧
    (∀ a, t.cfg a = s.cfg a ∧
      t.fbm a = { s.fbm a with tripped := false, enaDropped := false }) ∧
    (∀ b, t.bank b = { s.bank b with uses := 0 }) ∧ (∀ n, t.signal n = .reset) ∧
    (∀ e, t.entry e = .reset) ∧ (∀ u, t.cap u = .disarmed) ∧ t.overflowMask = 0 ∧ t.outs = 0 ∧
    t.lines = s.lines ∧ t.setupLo = s.setupLo ∧ t.setupHi = s.setupHi ∧ t.time = s.time

/-! ### The register window -/

/-- A write of ENABLE to 1 (R165, R171): in DS_OFF the setup address decides between DS_LOAD and a failed
enable; in DS_LOAD the value is held; elsewhere nothing changes. -/
def Obligations.EnableSetLoadsOrFails : Prop :=
  ∀ (s : State) (w : Word), s.resetHeld = false →
    (s.dev = .off → (s.setupHi ++ s.setupLo : BitVec 64).toNat % 32 = 0 →
      exec (.enableSet w) s = .next
        { s with enable := true, faultCode := .none, faultSource := .none, dev := .load }.finish) ∧
    (s.dev = .off → (s.setupHi ++ s.setupLo : BitVec 64).toNat % 32 ≠ 0 →
      exec (.enableSet w) s = .next
        { s with enable := false, faultCode := .setupAlign, faultSource := .setup, dev := .off
                 moderator := { s.moderator with causeDevice := true } }.finish) ∧
    (s.dev = .load → exec (.enableSet w) s = .next { s with enable := true }.finish) ∧
    (ctrlStopSoft w = false → ctrlStopHard w = false →
      s.dev = .run ∨ s.dev = .drain ∨ s.dev = .fault → exec (.enableSet w) s = .next s.finish)

/-- A write of ENABLE to 0 (R171): a STOP_ALL request in the same write is taken first, in the device states
of R109; then in DS_RUN the drain begins; in DS_LOAD and DS_FAULT the value is held; in DS_OFF and DS_DRAIN
nothing more changes. -/
def Obligations.EnableClearDrainsOrRecords : Prop :=
  ∀ (s : State) (w : Word), s.resetHeld = false →
    let u : State := if ctrlStopHard w then s.haltAll .stopAll .hard
      else if ctrlStopSoft w then s.haltAll .stopAll .soft else s
    (s.dev = .run → exec (.enableClear w) s = .next u.drainEvent.finish) ∧
    (s.dev = .fault → exec (.enableClear w) s = .next { u with enable := false }.finish) ∧
    (s.dev = .drain → exec (.enableClear w) s = .next u.finish) ∧
    (s.dev = .load → exec (.enableClear w) s = .next { s with enable := false }.finish) ∧
    (s.dev = .off → exec (.enableClear w) s = .next s.finish)

/-- What the drain event leaves (R173, R48, R124): DS_DRAIN with ENABLE 0, every rendezvous entry CLOSED
and empty, every window empty, no capture unit ARMED, no axis that can take a segment. An axis that could is
halted with reason DRAIN by a soft stop; one in SQ_HALTING or SQ_HALTED keeps its state and its reason. Each
enabled axis owes its DRAIN_FLUSH with the flush range of R23, over what its halt has left in the window and
the record in flight (R151), or has it placed already; notices stay owed only while no place is FREE. A claim of
the CTE is withdrawn, and a waiting BARRIER ends with DRAINING (R137, R147). -/
def Obligations.DrainEmptiesTheWindows : Prop :=
  ∀ s : State, (∀ a, (s.seq a).sq = .off → (s.seq a).window = []) →
    s.drainEvent.dev = .drain ∧ s.drainEvent.enable = false ∧
    (∀ e, (s.drainEvent.entry e).state = .closed ∧ (s.drainEvent.entry e).members = 0 ∧
      (s.drainEvent.entry e).arrived = 0) ∧
    (∀ a, (s.drainEvent.seq a).window = [] ∧ ¬ live s.drainEvent a ∧
      ((s.seq a).sq = .off → (s.drainEvent.seq a).sq = .off)) ∧
    (∀ u c, s.drainEvent.cap u ≠ .armed c) ∧
    let t := s.drainEvent
    (∀ a, live s a → (t.seq a).reason = some .drain ∧ (t.seq a).sq =
      if ((s.mg a).softStop (s.cfg a).stopDecel).motion = .still then .halted else .halting) ∧
    (∀ a, (s.seq a).sq = .halting ∨ (s.seq a).sq = .halted →
      (t.seq a).sq = (s.seq a).sq ∧ (t.seq a).reason = (s.seq a).reason ∧
      t.mg a = { s.mg a with watchers := (t.mg a).watchers }) ∧
    (activeOk s → ∀ a, (s.seq a).sq ≠ .off →
      let x := s.ring (axisRing a)
      let q := (s.seq a).sq
      let w := if q ≠ .halting ∧ q ≠ .halted ∧ (s.seq a).activeEntry ≠ none then (s.seq a).window.tail
        else (s.seq a).window
      let n := w.length + if x.fetch = .inFlight then 1 else 0
      let first := match w with | e :: _ => e.seq | [] => x.seqNo
      Owed.drainFlush a n first s.time ∈ t.owed ∨
      { kind := CplKind.drainFlush, ring := BitVec.ofNat 8 a.val, seq := 0, tag := 0, status := 0
        second := 0, pos := BitVec.ofNat 32 n, aux := first.setWidth 32, time := s.time
        notify := true } ∈ t.queue.filled) ∧
    ((∃ a, (s.seq a).sq ≠ .off) → t.owed ≠ [] →
      8 ≤ t.queue.reserved.length + t.queue.filled.length + if t.queue.writing = none then 0 else 1) ∧
    (s.cte = .idle ∨ s.cte = .claim → t.cte = .idle) ∧ (s.cte = .fetch → t.cte = .fetch) ∧
    ∀ b, s.cte = .barrier b → t.cte = .idle ∧ (Holder.cte ∈ s.queue.reserved → ∃ m : BitVec 4,
      (∀ a : Axis, m.getLsbD a = (b.axes.getLsbD a && (s.seq a).sq != .off)) ∧
      { kind := CplKind.cmdDone, ring := 4, seq := b.seq, tag := b.tag, status := 10, second := 0xFF
        pos := m.setWidth 32, aux := m.setWidth 32, time := s.time
        notify := b.notify } ∈ t.queue.filled)

/-- STOP_ALL_SOFT and STOP_ALL_HARD (R109, R171): in DS_RUN, DS_DRAIN and DS_FAULT they halt every enabled
axis with reason STOP_ALL and their stop kind, which leaves none that can take a segment, and then the ENABLE
field of the write is taken; in DS_OFF and DS_LOAD the request is ignored. -/
def Obligations.StopAllHaltsEveryAxis : Prop :=
  (∀ (s : State) (w : Word) (hard : Bool), s.resetHeld = false →
    let c : Instr := if hard then .stopAllHard w else .stopAllSoft w
    let u := s.haltAll .stopAll (if hard then .hard else .soft)
    (s.dev = .run → exec c s = .next (if ctrlEnable w then u else u.drainEvent).finish) ∧
    (s.dev = .drain → exec c s = .next u.finish) ∧
    (s.dev = .fault →
      exec c s = .next { u with enable := s.enable && ctrlEnable w }.finish) ∧
    (s.dev = .load → exec c s = .next { s with enable := ctrlEnable w }.finish) ∧
    (s.dev = .off → ctrlEnable w = false → exec c s = .next s.finish) ∧
    (s.dev = .off → ctrlEnable w = true → exec c s = .next s.enableOn.finish)) ∧
  ∀ (s : State) (r : HaltReason) (k : StopKind) (a : Axis), ¬ live (s.haltAll r k) a

/-- A write of POST (R169, R182): in DS_RUN and DS_DRAIN an index below the ring's size that does not fall
behind the present producer index sets it, and any other records POST_RANGE with the ring, or NONE, as
source; in the other states it is only held for reading back. Bits 8 to 15 are ignored and read as 0. -/
def Obligations.PostMovesTheProducerIndex : Prop :=
  ∀ (s : State) (w : Word), s.resetHeld = false →
    let u : State := { s with postReg := w &&& 0xFFFF00FF#32 }
    (∀ r : RingNo, (w.extractLsb' 0 8).toNat = r.val → s.dev = .run ∨ s.dev = .drain →
      let i := (w.extractLsb' 16 16).toNat
      let x := s.ring r;
      if i < x.size ∧ (x.prod + x.size - x.cons) % x.size ≤ (i + x.size - x.cons) % x.size then
        exec (.post w) s = .next (u.modRing r fun x => { x with prod := i }).finish
      else
        exec (.post w) s = .next { u with faultCode := .postRange, faultSource := .ring r }.finish) ∧
    (4 < (w.extractLsb' 0 8).toNat → s.dev = .run ∨ s.dev = .drain →
      exec (.post w) s = .next { u with faultCode := .postRange, faultSource := .none }.finish) ∧
    (s.dev = .off ∨ s.dev = .load ∨ s.dev = .fault → exec (.post w) s = .next u.finish) ∧
    ∃ t, exec (.post w) s = .next t ∧ t.readReg 0x14#32 = w &&& 0xFFFF00FF#32

/-- A write of CACK (R170): in DS_RUN and DS_DRAIN a value below twice the size that does not pass the records
outstanding moves the host index; any other, and any in another device state, is ignored and changes nothing. -/
def Obligations.CackMovesTheHostIndex : Prop :=
  ∀ (s : State) (w : Word), s.resetHeld = false →
    let v := (w.extractLsb' 0 16).toNat
    let n := 2 * s.cpl.size
    if (s.dev = .run ∨ s.dev = .drain) ∧ v < n ∧
        (v + n - s.cpl.host) % n ≤ (s.cpl.prod + n - s.cpl.host) % n then
      exec (.cack w) s = .next { s with cpl := { s.cpl with host := v } }.finish
    else exec (.cack w) s = .next s

/-- An acknowledge (R162): the notify count becomes 0, the holdoff timer stops and each cause written 1 is
cleared, in every device state; IRQ follows the causes that remain; a write that sets no cause to 1 changes
nothing. -/
def Obligations.AcknowledgeClearsCauses : Prop :=
  ∀ (s : State) (w : Word), s.resetHeld = false →
    (w.getLsbD 8 = true ∨ w.getLsbD 9 = true ∨ w.getLsbD 10 = true →
      let t : State := { s with moderator := { s.moderator with
        count := 0, timer := none
        causeCount := s.moderator.causeCount && !w.getLsbD 8
        causeHoldoff := s.moderator.causeHoldoff && !w.getLsbD 9
        causeDevice := s.moderator.causeDevice && !w.getLsbD 10 } }
      exec (.intsAcknowledge w) s = .next t.finish ∧
      t.irq = (t.moderator.causeCount || t.moderator.causeHoldoff || t.moderator.causeDevice)) ∧
    (w.getLsbD 8 = false → w.getLsbD 9 = false → w.getLsbD 10 = false →
      exec (.intsAcknowledge w) s = .next s)

/-- SETUP_LO and SETUP_HI are written in DS_OFF and ignored in every other state (R163). Writes to IDENT,
STATUS and every offset that is no register's are ignored, and a write at the offset of another register is
that register's write (R182; log entry 23 for the last). Each register reads as R182 and the table of R172
give it, its undefined bits as 0; every other offset reads 0 (log entry 43 for one below 20h). -/
def Obligations.RegisterWritesByTheirOffset : Prop :=
  ∀ (s : State) (o w : Word), s.resetHeld = false →
    (s.dev = .off →
      exec (.setupLoWrite w) s = .next { s with setupLo := w }.finish ∧
      exec (.setupHiWrite w) s = .next { s with setupHi := w }.finish) ∧
    (s.dev ≠ .off → exec (.setupLoWrite w) s = .next s ∧ exec (.setupHiWrite w) s = .next s) ∧
    (writableOffsets.contains o = false → exec (.registerWrite o w) s = .next s) ∧
    exec (.registerWrite 0x04#32 w) s = exec
      (if w.getLsbD 1 then .softReset w else if w.getLsbD 0 then .enableSet w else .enableClear w) s ∧
    exec (.registerWrite 0x0C#32 w) s = exec (.setupLoWrite w) s ∧
    exec (.registerWrite 0x10#32 w) s = exec (.setupHiWrite w) s ∧
    exec (.registerWrite 0x14#32 w) s = exec (.post w) s ∧
    exec (.registerWrite 0x18#32 w) s = exec (.cack w) s ∧
    exec (.registerWrite 0x1C#32 w) s = exec (.intsAcknowledge w) s ∧
    s.readReg 0x00#32 = 0x00020001#32 ∧ s.readReg 0x04#32 = 0#31 ++ BitVec.ofBool s.enable ∧
    s.readReg 0x08#32 = 0#8 ++
      ((match s.faultSource with
        | .ring r => BitVec.ofNat 8 r.val | .cpl => 5 | .setup => 6 | .report => 7 | .none => 0xFF) ++
      ((match s.faultCode with
        | .none => 0#8 | .setupVersion => 1 | .setupSize => 2 | .setupIndex => 3 | .setupAlign => 4
        | .setupOverlap => 5 | .setupIrq => 6 | .busRead => 0x10 | .busWrite => 0x11
        | .postRange => 0x20) ++
      (match s.dev with | .off => 0#8 | .load => 1 | .run => 2 | .drain => 3 | .fault => 4))) ∧
    s.readReg 0x0C#32 = s.setupLo ∧ s.readReg 0x10#32 = s.setupHi ∧ s.readReg 0x14#32 = s.postReg ∧
    s.readReg 0x18#32 = BitVec.ofNat 32 s.cpl.host ∧
    (s.moderator.count ≤ 255 → s.readReg 0x1C#32 =
      0#15 ++ (BitVec.ofBool (s.moderator.causeCount || s.moderator.causeHoldoff || s.moderator.causeDevice)
        ++ (0#5 ++ (BitVec.ofBool s.moderator.causeDevice ++ (BitVec.ofBool s.moderator.causeHoldoff
        ++ (BitVec.ofBool s.moderator.causeCount ++ BitVec.ofNat 8 s.moderator.count)))))) ∧
    (o ∉ [0x00#32, 0x04#32, 0x08#32, 0x0C#32, 0x10#32, 0x14#32, 0x18#32, 0x1C#32] → s.readReg o = 0)

/-! ### Pins and clocked blocks -/

/-- The filter of a line (R126): a raw change back to the filtered level cancels, one with filter time 0 raises
the edge at once, one with a filter time waits, and the expiry of a pending change raises the edge (at its own
time, log entry 5); a pin that does not change and an expiry with nothing pending change nothing (log entry 4).
The edge leaves the filtered level at the raw level with no pending change, and every other line as it was.
Every role on the line takes it (R127), in the order of log entry 13: the limits at one step and the homes at
one step (R155, log entry 25), the WAIT_INPUT conditions of the axes that waited before it (R27, R28), the
capture units, and the machine stop in the device states of R109 (R110, R129). -/
def Obligations.FilterRaisesTheEdge : Prop :=
  (∀ (s : State) (l k : Line), (s.filteredEdge l).line k =
    if k = l then { s.line l with filtered := (s.line l).pin != (s.line l).activeLow, pendingSince := none }
    else s.line k) ∧
  (∀ (s : State) (l : Line),
    let v : Bool := (s.line l).pin != (s.line l).activeLow
    let level := s.modLine l fun x => { x with filtered := v, pendingSince := none }
    let limits := level.atOneStep
      (allAxes.map fun a => (a, fun u => State.limitRole l v a true (State.limitRole l v a false u)))
    let homes := limits.atOneStep (allAxes.map fun a => (a, State.homeRole l v a))
    let inputs := forEach (allAxes.filter (s.waitsOn l v)) (State.inputRole l v) homes
    let captures := forEach allUnits (State.captureRole l v) inputs
    s.filteredEdge l = captures.stopRole l v) ∧
  (∀ (s : State) (l : Line) (v : Bool) (a : Axis),
    let waits : Prop := (s.seq a).sq = .wait .cond ∧ ∃ e b g, (s.seq a).candidate = some e ∧
      e.seg.body = some b ∧ b.start = .waitInput l g ∧
      (match g with | .rise | .active => v = true | .fall => v = false)
    let t := State.inputRole l v a s
    (¬ waits → t = s) ∧
    (waits → (t.seq a).sq = .wait .place ∧ t.claims = s.claims ++ [.axis a] ∧
      ∀ b, b ≠ a → t.seq b = s.seq b)) ∧
  (∀ (s : State) (l : Line) (k : StopKind),
    s.stopRole l false = s ∧ ((s.line l).stopAll = none → s.stopRole l true = s) ∧
    ((s.line l).stopAll = some k → s.stopRole l true =
      if s.dev = .run ∨ s.dev = .drain ∨ s.dev = .fault then s.haltAll .stopAll k else s)) ∧
  ∀ (s : State) (l : Line) (h : Bool), s.resetHeld = false →
    let u := s.modLine l fun x => { x with pin := h }
    let raw : Bool := h != (s.line l).activeLow
    ((s.line l).pin = h → exec (.rawChange l h) s = .next s) ∧
    ((s.line l).pin ≠ h → raw = (s.line l).filtered →
      exec (.rawChange l h) s = .next (u.modLine l fun x => { x with pendingSince := none }).finish) ∧
    ((s.line l).pin ≠ h → raw ≠ (s.line l).filtered → (s.line l).filterTime = 0 →
      exec (.rawChange l h) s = .next (u.filteredEdge l).finish) ∧
    ((s.line l).pin ≠ h → raw ≠ (s.line l).filtered → (s.line l).filterTime ≠ 0 →
      exec (.rawChange l h) s =
        .next (u.modLine l fun x => { x with pendingSince := some s.time }).finish) ∧
    (∀ t, (s.line l).pendingSince = some t → exec (.filterExpiry l) s = .next
      ((s.reachTime (t + BitVec.ofNat 32 (s.line l).filterTime)).filteredEdge l).finish) ∧
    ((s.line l).pendingSince = none → exec (.filterExpiry l) s = .next s)

/-- The limit role of a side (R91, R93, R94): an active edge sets the line component; an inactive edge clears
it and does nothing else; a line that is not the side's limit does nothing. Outside a HOME the active edge
halts an axis that moves toward the side, by its limit action. During a HOME it acts by the phase (R79 to
R84, R86): as outside in LEAD_IN and SETTLE and at the search side in SEARCH without REVERSE_ON_LIMIT; with
it the search turns, by a descent at stop_decel; the other side leaves SEARCH running; in CLEAR and
SEARCH_BACK it is HOME_FAIL; and the home line as limit of the search side does not act beyond the block in
SEARCH, SEARCH_BACK (R79) and SETTLE (log entries 22 and 30). -/
def Obligations.LimitEdgeBlocksAndHalts : Prop :=
  ∀ (s : State) (l : Line) (a : Axis) (side : Bool),
    let block (v : Bool) := s.modSeq a fun q => q.setLineBlock side v
    let halted : State := if (s.mg a).motion ≠ .still ∧ (s.mg a).positive = side then
        (block true).haltCause a (if side then .limitPos else .limitNeg) (s.cfg a).limitAction false
      else block true
    ((s.cfg a).limit side ≠ some l → ∀ v, State.limitRole l v a side s = s) ∧
    ((s.cfg a).limit side = some l →
      State.limitRole l false a side s = block false ∧
      ((s.seq a).homing = none → State.limitRole l true a side s = halted) ∧
      ∀ h o v reverse neg bank st post x y, (s.seq a).homing = some h →
        s.activeBody a = some ⟨.home o v reverse neg, bank, st, post, x, y⟩ →
        State.limitRole l true a side s =
          let failed := (block true).haltCause a .homeFail (s.cfg a).limitAction false
          let home : Bool := side == h.searchPositive && (s.cfg a).homeLine == some l
          match h.phase with
          | .leadIn => halted
          | .clear => failed
          | .search =>
            if home || side != h.searchPositive then block true
            else if reverse then
              let p := (s.mg a).startStop (s.cfg a).stopDecel
              let h' := { h with phase := .searchBack }
              let t := ((block true).setHoming a h').modMg a fun _ => p.1
              if p.2 = .standstill then
                t.homeStandstill a h' ⟨.home o v reverse neg, bank, st, post, x, y⟩ else t
            else halted
          | .searchBack => if home then block true else failed
          | .settle => if home then block true else halted)

/-- A capture unit at an edge of a line (R121): an ARMED unit takes a matching edge, with the values of the
event, and its notice becomes owed; an ARMED_PENDING unit counts it as missed, up to 255; any other edge is
ignored. -/
def Obligations.CaptureTakesTheEdge : Prop :=
  ∀ (s : State) (l : Line) (active : Bool) (u : UnitNo) (c : CapConfig),
    let hit : Bool := c.line == l &&
      (match c.edge with | .rise => active | .fall => !active | .both => true)
    (s.cap u = .armed c → State.captureRole l active u s =
      if hit then
        let p : CapPending := ⟨active, (s.mg c.axis).pos, (s.fbm c.axis).count, s.time, 0⟩
        (s.setCap u (if c.continuous then .armedPending c p else .spentPending c p)).owe (.capture u)
      else s) ∧
    (∀ p, s.cap u = .armedPending c p → State.captureRole l active u s =
      if hit then s.setCap u (.armedPending c { p with missed := min (p.missed + 1) 255 }) else s) ∧
    (∀ p, s.cap u = .spentPending c p → State.captureRole l active u s = s) ∧
    (s.cap u = .disarmed → State.captureRole l active u s = s)

/-- The quadrature decoder (R112, R117): one input forward along (0,0), (1,0), (1,1), (0,1) raises the
count by 1, one backward lowers it, both leave it and raise ENCODER on a monitored axis; the new pair is the
decoder state, and a count is followed by the test of the deviation; a pair that does not change is no event
(log entry 4). -/
def Obligations.EncoderCountsQuadrature : Prop :=
  ∀ (s : State) (a : Axis) (x y : Bool), s.resetHeld = false →
    let f := s.fbm a
    let u (n : Word) := s.modFbm a fun g => { g with count := n, encA := x, encB := y }
    ((x, y) = (!f.encB, f.encA) →
      exec (.encoderChange a x y) s = .next ((u (f.count + 1)).testDeviation a).finish) ∧
    ((x, y) = (f.encB, !f.encA) →
      exec (.encoderChange a x y) s = .next ((u (f.count - 1)).testDeviation a).finish) ∧
    ((x, y) = (!f.encA, !f.encB) →
      exec (.encoderChange a x y) s = .next (if s.monitored a then
        (u f.count).takeFault a .encoder .hard else u f.count).finish) ∧
    ((x, y) = (f.encA, f.encB) → exec (.encoderChange a x y) s = .next s)

/-- The test of the deviation (R114, R115): on a monitored axis an ARMED monitor beyond its tolerance raises
FOLLOWING and becomes TRIPPED, a TRIPPED one back within it becomes ARMED, and nothing else happens; an axis
that is not monitored is not tested. An axis is monitored while it is not SQ_OFF, its tolerance is above 0 and
the device is in DS_RUN, DS_DRAIN or DS_FAULT (R114, R117). A FOLLOWING or ENCODER event taken at the SEQ is a
halt cause, and with disable_on_fault it drops ENA, outside SQ_OFF (R116, R118). -/
def Obligations.DeviationTestTrips : Prop :=
  (∀ (s : State) (a : Axis), s.monitored a = true ↔ (s.seq a).sq ≠ .off ∧ 0 < (s.cfg a).tolerance ∧
    (s.dev = .run ∨ s.dev = .drain ∨ s.dev = .fault)) ∧
  (∀ (s : State) (a : Axis),
    let d : Int := (s.mg a).pos - (s.fbm a).ref
      - ((s.fbm a).count.toInt * (s.cfg a).encNum).tdiv (s.cfg a).encDen
    let u (b : Bool) := s.modFbm a fun f => { f with tripped := b }
    (s.monitored a = false → s.testDeviation a = s) ∧
    (s.monitored a = true → (s.cfg a).tolerance < d.natAbs → (s.fbm a).tripped = false →
      s.testDeviation a = (u true).takeFault a .following (s.cfg a).faultAction) ∧
    (s.monitored a = true → (s.cfg a).tolerance < d.natAbs → (s.fbm a).tripped = true →
      s.testDeviation a = u true) ∧
    (s.monitored a = true → d.natAbs ≤ (s.cfg a).tolerance → s.testDeviation a = u false)) ∧
  ∀ (s : State) (a : Axis) (r : HaltReason) (k : StopKind),
    let drops : Prop := (s.cfg a).disableOnFault = true ∧ (s.seq a).sq ≠ .off
    let t := s.takeFault a r k
    (drops → t = (s.modFbm a fun f => { f with enaDropped := true }).haltCause a r k false) ∧
    (¬ drops → t = s.haltCause a r k false) ∧
    (drops → t.fbm a = { s.fbm a with enaDropped := true } ∧ t.ena a = false) ∧
    (¬ drops → t.fbm a = s.fbm a) ∧ ∀ b, b ≠ a → t.fbm b = s.fbm b

/-- MG_STEP, PROFILE_PHASE_END, DWELL_EXPIRY and HOLDOFF_EXPIRY take place where their event is the next of
its block (R53, R54, R61, R161), an expiry at its own time (log entry 5), and otherwise change nothing (log
entry 4). What the end of a phase leaves (R54 to R60, R68), `y` beyond the present point: a descent to zero ends
at standstill; a RUN has reached its velocity; a rise, a fall to the cruise velocity and a cruise toward an end
position go on into MG_CRUISE at the cruise velocity or into the descent that is then due (log entries 18 and
41); and the first part of a reversal makes its new start (R57; log entry 20 where it ends on the target). -/
def Obligations.TimedEventsTakePlace : Prop :=
  (∀ (m : MG) (y : Rat), m.phaseEnd = some y →
    let p := m.endPhaseNow
    let n := p.1
    let w : Rat := ((m.profile.vstop * m.profile.vstop : Nat) : Rat)
    let c : Rat := ((m.cruise * m.cruise : Nat) : Rat)
    let toGo (e : Int) : Rat := (((if n.positive then e - n.pos else n.pos - e) : Int) : Rat) - n.frac
    let due (e : Int) : Prop := w < n.speedSq ∧ toGo e ≤ (n.speedSq - w) / (2 * (m.profile.decel : Rat))
    let falls : Prop := m.motion = .decel ∧ m.reversing = false
    (m.motion = .stopRamp ∨ (falls ∧ (m.goal = .standstill ∨ m.goal = .velocity 0)) →
      y = (m.speedSq - w) / (2 * (m.rate : Rat)) ∧
      p = ({ m with motion := .still, speedSq := 0, frac := 0 }, .standstill)) ∧
    (∀ r, m.goal = .velocity r → m.motion = .accel →
      y = (((r.natAbs * r.natAbs : Nat) : Rat) - m.speedSq) / (2 * (m.profile.accel : Rat)) ∧
      p = ({ m with speedSq := ((r.natAbs * r.natAbs : Nat) : Rat), frac := m.frac + y }, .velocityReached)) ∧
    (∀ r, m.goal = .velocity r → r ≠ 0 → falls →
      y = (m.speedSq - ((r.natAbs * r.natAbs : Nat) : Rat)) / (2 * (m.rate : Rat)) ∧
      p = ({ m with speedSq := ((r.natAbs * r.natAbs : Nat) : Rat), frac := m.frac + y }, .velocityReached)) ∧
    (∀ e, m.goal = .position e → 1 ≤ m.profile.accel → 1 ≤ m.profile.decel →
      m.motion = .accel ∨ m.motion = .cruise ∨ falls →
      p = ({ m with speedSq := n.speedSq, frac := m.frac + y, motion := n.motion }, .none) ∧
      (m.form = .trapezoid → (due e → n.motion = .decel) ∧ (¬ due e → n.speedSq = c ∧ n.motion = .cruise)) ∧
      (m.motion = .accel → (n.speedSq = m.speedSq + 2 * (m.profile.accel : Rat) * y ∨ n.speedSq = c) ∧
        n.speedSq ≤ c ∧ (due e ∨ n.speedSq = c)) ∧
      (m.motion = .cruise → n.speedSq = m.speedSq ∧ due e) ∧
      (falls → n.speedSq = c)) ∧
    (m.motion = .decel → m.reversing = true →
      n.reversing = false ∧ n.pos = m.pos ∧ n.frac = 0 ∧
      (∀ e, m.goal = .position e →
        (e = m.pos → n.motion = .still ∧ p.2 = .targetReached) ∧
        (e ≠ m.pos → p.2 = .none ∧ n.positive = decide (m.pos < e) ∧ n.speedSq =
          ((min m.profile.vstart m.cruise * min m.profile.vstart m.cruise : Nat) : Rat))) ∧
      (∀ r, m.goal = .velocity r → n.positive = decide (0 < r) ∧ n.speedSq =
          ((min m.profile.vstart r.natAbs * min m.profile.vstart r.natAbs : Nat) : Rat) ∧
        p.2 = if r.natAbs ≤ m.profile.vstart then .velocityReached else .none))) ∧
  ∀ (s : State) (a : Axis), s.resetHeld = false →
    ((s.mg a).stepNext = true → exec (.mgStep a) s = .next (s.stepped a).finish) ∧
    ((s.mg a).stepNext = false → exec (.mgStep a) s = .next s) ∧
    ((s.mg a).phaseEndNext = true → exec (.profilePhaseEnd a) s = .next
      ((s.modMg a fun _ => (s.mg a).endPhaseNow.1).takeMgEvent a (s.mg a).endPhaseNow.2).finish) ∧
    ((s.mg a).phaseEndNext = false → exec (.profilePhaseEnd a) s = .next s) ∧
    (∀ t, (s.mg a).goal = .dwell t → exec (.dwellExpiry a) s = .next
      ((s.reachTime t).complete a fun m => if m = .cruise then .hold else m).finish) ∧
    ((∀ t, (s.mg a).goal ≠ .dwell t) → exec (.dwellExpiry a) s = .next s) ∧
    (∀ t, s.moderator.timer = some t → exec .holdoffExpiry s = .next
      { s.reachTime t with moderator :=
        { s.moderator with causeHoldoff := true, timer := none } }.finish) ∧
    (s.moderator.timer = none → exec .holdoffExpiry s = .next s)

/-- The two events of a moving MG. One step (R53, R55): the commanded position moves by one in the
direction of DIR, with one pulse; where the step reaches the target or the velocity reaches 0, the axis
stands still; the profile, the goal and the watchers are kept. The end of a phase between steps makes no
step, and keeps the same. At the step the position components follow and the watchers are served (R71, R92),
the SEQ takes the event of the MG, the range end halts and stops the axis (R70), a step beyond a soft bound
outside a HOME halts it (R72, R95), and the deviation is tested, in this order (log entry 14; log entry 21
for a SETTLE that lands on the end of the range, log entry 44 for a reversal's new start there). An axis in
SQ_HALTING is SQ_HALTED at its standstill (R101). The event of the MG at an active segment (R52, R58 to R63): it
completes the segment with the velocity in aux, a RUN that reaches its velocity in MG_HOLD; a HOME cruises at
its velocity, turns at a standstill and ends SETTLE at its target. -/
def Obligations.StepMovesByOne : Prop :=
  (∀ m : MG,
    (m.endPhaseNow.1.pos = m.pos ∧ m.endPhaseNow.1.pulses = m.pulses ∧
      m.endPhaseNow.1.profile = m.profile ∧ m.endPhaseNow.1.goal = m.goal ∧
      m.endPhaseNow.1.watchers = m.watchers) ∧
    (m.endPhaseNow.2 = .targetReached ∨ m.endPhaseNow.2 = .standstill →
      m.endPhaseNow.1.motion = .still ∧ m.endPhaseNow.1.speedSq = 0) ∧
    m.step.1.pos = (if m.positive then m.pos + 1 else m.pos - 1) ∧
    m.step.1.pulses = m.pulses + 1 ∧ m.step.1.profile = m.profile ∧ m.step.1.goal = m.goal ∧
    m.step.1.watchers = m.watchers ∧
    (m.step.2 = .targetReached ∨ m.step.2 = .standstill →
      m.step.1.motion = .still ∧ m.step.1.speedSq = 0) ∧
    (∀ e, m.goal = .position e → m.reversing = false → m.step.1.pos = e → m.step.2 = .targetReached)) ∧
  (∀ (s : State) (a : Axis),
    let m := s.mg a
    let p := m.step
    let c := s.cfg a
    let home : Prop := (s.seq a).homing ≠ none
    let why : HaltReason := if m.positive then .softLimitPos else .softLimitNeg
    let last : Prop := p.1.pos = (if m.positive then posMax else posMin)
    let out : Prop := c.softLimits = true ∧ (s.seq a).homing = none ∧
      (if m.positive then m.pos = c.hi else m.pos = c.lo)
    let moved := s.modMg a fun _ => p.1
    let served := (if (s.seq a).homing = none then moved.recomputePosBlocks a else moved).serveWatchers a
    let taken := if last ∧ home ∧ p.2 = .targetReached then served else served.takeMgEvent a p.2
    let ended := if last ∧ (home ∨ p.2 ≠ .targetReached) then
      (taken.haltCause a why .hard false).modMg a MG.hardStop else taken
    let crossed := if out then ended.haltCause a why .soft false else ended
    s.stepped a = crossed.testDeviation a) ∧
  ∀ (s : State) (a : Axis) (ev : MgEvent),
    ((s.seq a).sq = .halting → (s.mg a).motion = .still → s.takeMgEvent a ev = s.setSq a .halted) ∧
    ((s.seq a).sq = .halting → (s.mg a).motion ≠ .still → s.takeMgEvent a ev = s) ∧
    ((s.seq a).sq ≠ .halting → (s.seq a).sq ≠ .run → s.takeMgEvent a ev = s) ∧
    (∀ b, (s.seq a).sq = .run → s.activeBody a = some b →
      let t := s.takeMgEvent a ev
      let u (m : MotionState) : State := s.modMg a fun x => { x with motion := m }
      let home : Prop := ∃ o v x y, b.work = .home o v x y
      let run : Prop := ∃ r f, b.work = .run r f
      (ev = .none → t = s) ∧
      (ev = .holds → t = s.completionEvent a (s.mg a).velocity) ∧
      (run → ev = .velocityReached → t = (u .hold).completionEvent a (s.mg a).velocity) ∧
      (¬ run → ¬ home → ev = .velocityReached → t = s) ∧
      (¬ home → ev = .standstill ∨ ev = .targetReached →
        t = s.completionEvent a (s.mg a).velocity) ∧
      (home → ev = .velocityReached → t = u .cruise) ∧
      (∀ h, home → (s.seq a).homing = some h →
        (ev = .standstill → t = s.homeStandstill a h b) ∧
        (ev = .targetReached → t = s.settleEnd a h b)))

/-- The motions that the kinds begin. A MOVE from standstill (R54, R55, R58): to its own position it holds at
once; otherwise DIR takes the side of the target, the velocity rises to the smaller of vstart and the cruise
velocity, and the form is decided by the distances rounded up to whole steps. A MOVE in motion (R56, R57): where
its end position lies ahead at no less than the stopping distance in whole steps it goes on, rising, falling or
cruising, or into the descent that is due (log entries 40 and 41); otherwise it reverses. A RUN by the present
velocity and the one to reach (R59), and a STOP (R60). A reversal descends at decel, and at or below vstop makes
its new start at once; a DWELL in MG_HOLD shows MG_CRUISE (R61). -/
def Obligations.MoveFromStandstillIsPlanned : Prop :=
  (∀ (m : MG) (e : Int) (c : Nat), m.motion = .still →
    let p := m.profile
    let v : Nat := min p.vstart c
    let fall (u : Nat) : Rat :=
      if p.vstop < u then ((u * u : Nat) - (p.vstop * p.vstop : Nat) : Rat) / (2 * (p.decel : Rat)) else 0
    let rise : Rat := ((c * c : Nat) - (v * v : Nat) : Rat) / (2 * (p.accel : Rat))
    let d : Int := (e - m.pos).natAbs
    (e = m.pos → (m.startMove e c).2 = .holds ∧ (m.startMove e c).1.motion = .still) ∧
    (e ≠ m.pos → (m.startMove e c).2 = .none ∧ (m.startMove e c).1.pos = m.pos ∧
      (m.startMove e c).1.goal = .position e ∧ (m.startMove e c).1.cruise = c ∧
      (m.startMove e c).1.positive = decide (m.pos < e) ∧
      (m.startMove e c).1.speedSq = ((v * v : Nat) : Rat) ∧
      (m.startMove e c).1.form =
        if d < ⌈fall v⌉ then .flat else if ⌈rise⌉ + ⌈fall c⌉ ≤ d then .trapezoid else .triangle)) ∧
  ∀ m : MG,
    let w : Rat := ((m.profile.vstop * m.profile.vstop : Nat) : Rat)
    let stop : Rat := if w < m.speedSq then (m.speedSq - w) / (2 * (m.profile.decel : Rat)) else 0
    let sq (v : Nat) : Rat := ((v * v : Nat) : Rat)
    let still (p : MG × MgEvent) : Prop := p.1.motion = .still ∧ p.1.speedSq = 0 ∧ p.1.pos = m.pos
    let goesOn (p : MG × MgEvent) : Prop := p.1.speedSq = m.speedSq ∧ p.1.positive = m.positive ∧
      p.1.frac = m.frac ∧ p.1.pos = m.pos ∧ p.1.reversing = false
    let reverses (p : MG × MgEvent) : Prop := p.1.motion = .decel ∧ p.1.reversing = true ∧ p.2 = .none ∧
      p.1.rate = m.profile.decel ∧ p.1.speedSq = m.speedSq ∧ p.1.positive = m.positive ∧ p.1.pos = m.pos ∧
      p.1.frac = m.frac
    let rises (p : MG × MgEvent) (up : Bool) (v : Nat) : Prop := p.1.positive = up ∧ p.1.reversing = false ∧
      p.1.speedSq = sq (min m.profile.vstart v) ∧ p.1.frac = 0 ∧ p.1.pos = m.pos
    (∀ (e : Int) (c : Nat), m.motion ≠ .still →
      let p := m.startMove e c
      let ahead : Prop := if m.positive then m.pos < e else e < m.pos
      let d : Int := (e - m.pos).natAbs
      let due : Prop := w < m.speedSq ∧ (d : Rat) - m.frac ≤ stop
      let far : Prop := ⌈(sq c - m.speedSq) / (2 * (m.profile.accel : Rat))⌉ +
        ⌈if w < sq c then (sq c - w) / (2 * (m.profile.decel : Rat)) else 0⌉ ≤ d
      p.1.goal = .position e ∧ p.1.cruise = c ∧
      (e = m.pos → p.2 = .holds ∧ goesOn p ∧ p.1.motion = m.motion) ∧
      (e ≠ m.pos → ahead → ⌈stop⌉ ≤ d → p.2 = .none ∧ goesOn p ∧ p.1.motion =
        if due then .decel else if sq c < m.speedSq then .decel
        else if m.speedSq < sq c ∨ ¬ far then .accel else .cruise) ∧
      (e ≠ m.pos → ¬ (ahead ∧ ⌈stop⌉ ≤ d) →
        if m.speedSq ≤ w then rises p (decide (m.pos < e)) c ∧ p.2 = .none else reverses p)) ∧
    (∀ r : Int,
      let p := m.startRun r
      let v := r.natAbs
      let same : Prop := decide (0 < r) = m.positive
      p.1.goal = .velocity r ∧
      (m.motion = .still → r = 0 → p.2 = .holds ∧ p.1.motion = .still ∧ goesOn p) ∧
      (m.motion = .still → r ≠ 0 → rises p (decide (0 < r)) v ∧ p.1.motion = .accel ∧
        p.2 = if v ≤ m.profile.vstart then .velocityReached else .none) ∧
      (m.motion ≠ .still → r = 0 →
        if m.speedSq ≤ w then still p ∧ p.2 = .standstill
        else goesOn p ∧ p.1.motion = .decel ∧ p.1.rate = m.profile.decel ∧ p.2 = .none) ∧
      (m.motion ≠ .still → r ≠ 0 → same → goesOn p ∧
        (sq v = m.speedSq → p.2 = .holds ∧ p.1.motion = m.motion) ∧
        (m.speedSq < sq v → p.2 = .none ∧ p.1.motion = .accel) ∧
        (sq v < m.speedSq → p.2 = .none ∧ p.1.motion = .decel ∧ p.1.rate = m.profile.decel)) ∧
      (m.motion ≠ .still → r ≠ 0 → ¬ same →
        if m.speedSq ≤ w then rises p (decide (0 < r)) v ∧
          p.2 = if v ≤ m.profile.vstart then .velocityReached else .none
        else reverses p)) ∧
    (∀ rate : Nat,
      let p := m.startStop rate
      p.1.goal = .standstill ∧
      (m.motion = .still → p.2 = .holds ∧ p.1.motion = .still ∧ goesOn p) ∧
      (m.motion ≠ .still → if m.speedSq ≤ w then still p ∧ p.2 = .standstill
        else goesOn p ∧ p.1.motion = .decel ∧ p.1.rate = rate ∧ p.2 = .none)) ∧
    ∀ x : Time, m.startDwell x = { m with
      goal := .dwell x, reversing := false, motion := if m.motion = .hold then .cruise else m.motion }

/-- The two stops of the MG (R68, R69): a hard stop stands the axis at once, with no further step or phase;
a soft stop stands it where the speed is at or below vstop, begins the stop ramp at stop_decel above it, and
leaves a running stop ramp as it is. -/
def Obligations.StopsOfTheMG : Prop :=
  ∀ (m : MG) (d : Nat),
    (m.hardStop.motion = .still ∧ m.hardStop.speedSq = 0 ∧ m.hardStop.goal = .none ∧
      m.hardStop.pos = m.pos ∧ m.hardStop.stepNext = false ∧ m.hardStop.phaseEndNext = false) ∧
    (m.softStop d).goal = .none ∧ (m.softStop d).pos = m.pos ∧
    (m.motion = .still → (m.softStop d).motion = .still ∧ (m.softStop d).speedSq = m.speedSq) ∧
    (m.motion ≠ .still → m.motion ≠ .stopRamp →
      if m.speedSq ≤ ((m.profile.vstop * m.profile.vstop : Nat) : Rat) then
        (m.softStop d).motion = .still ∧ (m.softStop d).speedSq = 0
      else (m.softStop d).motion = .stopRamp ∧ (m.softStop d).speedSq = m.speedSq ∧
        (m.softStop d).rate = d ∧ (m.softStop d).positive = m.positive) ∧
    (m.motion = .stopRamp → (m.softStop d).motion = .stopRamp ∧
      (m.softStop d).speedSq = m.speedSq ∧ (m.softStop d).rate = m.rate)


/-! ### The ends of transfers -/

/-- A fetch completion on an axis ring (R5, R8, R167): the record of a fetch marked for discard is dropped;
any other is passed by the consumer index, raises the use count of the bank its kind uses, and joins the tail
of the window PENDING and not armed, where an axis in SQ_EMPTY arms it at once. Where no fetch is in flight
nothing changes (log entry 4). -/
def Obligations.FetchCompletionJoinsTheWindow : Prop :=
  ∀ (s : State) (a : Axis) (r : Record), s.resetHeld = false →
    let x := s.ring (axisRing a)
    let e : Entry := ⟨decodeSegment r, x.seqNo, .pending .notArmed⟩
    let u := ((s.modRing (axisRing a) fun x => Ring.pass { x with fetch := .idle } 1).barrierPass a).raiseUse
      e.seg.bankUse
    let t := u.modSeq a fun q => { q with window := q.window ++ [e] }
    (x.fetch = .idle → exec (.fetchCompletion a r) s = .next s) ∧
    (x.fetch = .discard → exec (.fetchCompletion a r) s =
      .next (s.modRing (axisRing a) fun x => { x with fetch := .idle }).finish) ∧
    (x.fetch = .inFlight → (s.seq a).sq = .empty → exec (.fetchCompletion a r) s =
      .next (t.arm a).finish) ∧
    (x.fetch = .inFlight → (s.seq a).sq ≠ .empty → exec (.fetchCompletion a r) s = .next t.finish)

/-- The read completion of the setup block (R164, R165, R166): outside DS_LOAD it does not occur (log entry
4); with ENABLE 0 the device returns to DS_OFF; a check that fails is recorded and sets the DEVICE cause; and
when all pass the device enters DS_RUN with each ring, CPL, the holding queue, the moderator and the Control
Engine as the rule's table sets them, and the configuration and the windows kept. The stop-all halts of that
event come before the tests of the deviation (R110, R114; log entry 42). -/
def Obligations.SetupReadLoadsOrFails : Prop :=
  (∀ (s : State) (b : SetupBlock), s.resetHeld = false →
    (s.dev ≠ .load → exec (.setupReadCompletion b) s = .next s) ∧
    (s.dev = .load → s.enable = false →
      exec (.setupReadCompletion b) s = .next { s with dev := .off }.finish) ∧
    (∀ code src, s.dev = .load → s.enable = true → (readSetup b).check = some (code, src) →
      exec (.setupReadCompletion b) s = .next
        { s with dev := .off, enable := false, faultCode := code, faultSource := src
                 moderator := { s.moderator with causeDevice := true } }.finish) ∧
    (s.dev = .load → s.enable = true → (readSetup b).check = none →
      exec (.setupReadCompletion b) s = .next (s.enterRun (readSetup b)).finish)) ∧
  ∀ (s : State) (x : Setup),
    let t := s.loadSetup x
    s.enterRun x = forEach allAxes (fun a u => u.testDeviation a) t.entryStop ∧
    (s.stopLineActive = false → t.entryStop = t) ∧
    (s.stopLineActive = true → ∀ a, (s.seq a).sq = .empty → ¬ live t.entryStop a) ∧
    t.dev = .run ∧ t.enable = s.enable ∧ t.faultCode = s.faultCode ∧
    (∀ r : RingNo,
      let d := x.rings.get r.castSucc;
      t.ring r = ⟨d.base, d.size, d.start, d.start, BitVec.ofNat 16 d.start, .idle,
        .writing (BitVec.ofNat 16 d.start ++ BitVec.ofNat 16 d.start) false⟩) ∧
    (let c := x.rings.get 5;
      t.cpl = ⟨c.base, c.size, c.start, c.start⟩) ∧
    t.queue = .reset ∧ t.owed = [] ∧ t.claims = [] ∧ t.cte = .idle ∧ t.reportAddr = x.report ∧
    t.moderator = ⟨0, x.threshold, x.holdoff, none, false, false, s.moderator.causeDevice⟩ ∧
    t.axes = s.axes ∧ t.banks = s.banks ∧ t.signals = s.signals ∧ t.rdv = s.rdv ∧ t.lines = s.lines

/-- The items of the setup block stand at the offsets of section 11.4. It passes exactly where every condition
of R164 holds, and otherwise the first check that fails gives the code and the source: the version, then each
ring in order by its size, its start index and its area, then the report area, then the overlaps, and last the
threshold. The source of an overlap is the later area of a pair that is first by the later areas or first by
the earlier ones (log entry 8). -/
def Obligations.SetupPassesExactlyWhenSound : Prop :=
  (∀ b : SetupBlock,
    let x := readSetup b
    x.version = b.extractLsb' (8 * 0) 32 ∧ x.threshold = (b.extractLsb' (8 * 4) 8).toNat ∧
    x.holdoff = (b.extractLsb' (8 * 6) 16).toNat ∧ x.report = b.extractLsb' (8 * 8) 64 ∧
    ∀ i : Fin 6,
      let o := 16 + 16 * i.val
      let d := x.rings.get i
      d.base = b.extractLsb' (8 * o) 64 ∧ d.size = (b.extractLsb' (8 * (o + 8)) 16).toNat ∧
      d.start = (b.extractLsb' (8 * (o + 10)) 16).toNat) ∧
  (∀ x : Setup,
    let sized (i : Fin 6) : Prop := (x.rings.get i).size ∈ [16, 32, 64, 128, 256, 512, 1024]
    let indexed (i : Fin 6) : Prop := (x.rings.get i).start < (x.rings.get i).size
    let placed (base : BitVec 64) (len : Nat) : Prop := base.toNat % 32 = 0 ∧ base.toNat + len ≤ 2 ^ 64
    let sound (i : Fin 6) : Prop :=
      sized i ∧ indexed i ∧ placed (x.rings.get i).base (32 * (x.rings.get i).size)
    let source (i : Nat) : FaultSource :=
      if h : i < 5 then .ring ⟨i, h⟩ else if i = 5 then .cpl else .report
    let base (i : Fin 7) : Nat := if h : i.val < 6 then (x.rings.get ⟨i.val, h⟩).base.toNat else x.report.toNat
    let len (i : Fin 7) : Nat := if h : i.val < 6 then 32 * (x.rings.get ⟨i.val, h⟩).size else 32
    let meets (i j : Fin 7) : Prop := i < j ∧ base i < base j + len j ∧ base j < base i + len i
    (x.version ≠ 0x00020001#32 → x.check = some (.setupVersion, .setup)) ∧
    (x.version = 0x00020001#32 →
      (∀ i, (∀ j, j < i → sound j) →
        (¬ sized i → x.check = some (.setupSize, source i.val)) ∧
        (sized i → ¬ indexed i → x.check = some (.setupIndex, source i.val)) ∧
        (sized i → indexed i → ¬ sound i → x.check = some (.setupAlign, source i.val))) ∧
      ((∀ i, sound i) →
        (¬ placed x.report 32 → x.check = some (.setupAlign, .report)) ∧
        (placed x.report 32 →
          ((∃ i j, meets i j) → ∃ i j, meets i j ∧ x.check = some (.setupOverlap, source j.val) ∧
            ((∀ k l, meets k l → j ≤ l) ∨ ((∀ k l, meets k l → i ≤ k) ∧ ∀ l, meets i l → j ≤ l))) ∧
          ((∀ i j, ¬ meets i j) → ¬ (1 ≤ x.threshold ∧ x.threshold ≤ 255) →
            x.check = some (.setupIrq, .setup)))))) ∧
  ∀ x : Setup, x.check = none ↔
    x.version = 0x00020001#32 ∧
    (∀ i : Fin 6,
      let d := x.rings.get i;
      d.size ∈ [16, 32, 64, 128, 256, 512, 1024] ∧ d.start < d.size ∧ d.base.toNat % 32 = 0 ∧
      d.base.toNat + 32 * d.size ≤ 2 ^ 64) ∧
    x.report.toNat % 32 = 0 ∧ x.report.toNat + 32 ≤ 2 ^ 64 ∧
    (∀ i j : Fin 6, i < j →
      let d := x.rings.get i;
      let e := x.rings.get j;
      d.base.toNat + 32 * d.size ≤ e.base.toNat ∨ e.base.toNat + 32 * e.size ≤ d.base.toNat) ∧
    (∀ i : Fin 6,
      let d := x.rings.get i;
      d.base.toNat + 32 * d.size ≤ x.report.toNat ∨ x.report.toNat + 32 ≤ d.base.toNat) ∧
    1 ≤ x.threshold ∧ x.threshold ≤ 255

/-- What the part begins where its conditions hold. A CPL write begins for the head of the write order where
none is in flight and fewer than `size` records are outstanding, at the slot of the producer index and with
the phase of its lap; with `size` outstanding no write begins (R157, R158); outside DS_RUN and DS_DRAIN no
write stands at the port. A fetch begins on an axis ring exactly where the five conditions of R7 hold. The
CTE hands over its claim exactly where the three of R136 step 1 hold. -/
def Obligations.CplWriteBeginsWithRoom : Prop :=
  (∀ (s : State) (c : Completion) (rest : List Completion),
    s.queue.writing = none → s.queue.filled = c :: rest → s.dev = .run ∨ s.dev = .drain →
    let out := (s.cpl.prod + 2 * s.cpl.size - s.cpl.host) % (2 * s.cpl.size)
    (out < s.cpl.size →
      s.beginCplWrite = { s with queue := { s.queue with filled := rest, writing := some c } } ∧
      s.beginCplWrite.cplPort = some
        (s.cpl.base + BitVec.ofNat 64 (32 * (s.cpl.prod % s.cpl.size)),
         c.bytes (decide (s.cpl.prod < s.cpl.size)))) ∧
    (s.cpl.size ≤ out → s.beginCplWrite = s)) ∧
  (∀ s : State, s.dev ≠ .run → s.dev ≠ .drain → s.cplPort = none ∧ s.beginCplWrite = s) ∧
  (∀ (s : State) (a : Axis),
    let x := s.ring (axisRing a)
    let may : Prop := s.dev = .run ∧ live s a ∧ x.fetch = .idle ∧ (s.seq a).window.length < 4 ∧
      x.prod ≠ x.cons
    (may → State.beginFetch a s = s.modRing (axisRing a) fun x => { x with fetch := .inFlight }) ∧
    (¬ may → State.beginFetch a s = s)) ∧
  ∀ s : State,
    let may : Prop := s.cte = .idle ∧ s.dev = .run ∧ (s.ring ctl).prod ≠ (s.ring ctl).cons
    (may → s.cteClaim = { s with cte := .claim }) ∧ (¬ may → s.cteClaim = s)

/-- The write completions. A CPL write frees its place and advances the producer index over two laps, and a
record carrying NOTIFY is counted (R157); a report write ends, or begins anew with the present word where a
further report is due (R168). Where no such write is in flight nothing changes (log entry 4). The count of
NOTIFY records sets COUNT at the threshold and starts the holdoff timer (R161). -/
def Obligations.WriteCompletionsEndTheirWrite : Prop :=
  (∀ (m : Moderator) (now : Time), m.count ≤ 255 →
    let n := min (m.count + 1) 255
    m.countNotify now = { m with
      count := n
      causeCount := m.causeCount || decide (m.threshold ≤ n)
      timer :=
        if m.holdoff ≠ 0 ∧ m.timer = none ∧ m.causeHoldoff = false then
          some (now + BitVec.ofNat 32 m.holdoff)
        else m.timer }) ∧
  ∀ s : State, s.resetHeld = false →
    (∀ c, s.dev = .run ∨ s.dev = .drain → s.queue.writing = some c → exec .cplWriteCompletion s = .next
      { s with
        queue := { s.queue with writing := none }
        cpl := { s.cpl with prod := (s.cpl.prod + 1) % (2 * s.cpl.size) }
        moderator := if c.notify then s.moderator.countNotify s.time else s.moderator }.finish) ∧
    (s.queue.writing = none → exec .cplWriteCompletion s = .next s) ∧
    ∀ r : RingNo,
      let x := s.ring r;
      (∀ w, x.report = .writing w true → exec (.reportWriteCompletion r) s = .next
        (s.modRing r fun x => { x with report := .writing (x.seqNo ++ BitVec.ofNat 16 x.cons) false }).finish) ∧
      (∀ w, x.report = .writing w false → exec (.reportWriteCompletion r) s = .next
        (s.modRing r fun x => { x with report := .idle }).finish) ∧
      (x.report = .idle → exec (.reportWriteCompletion r) s = .next s)

/-- A bus fault (R175, R172, R159): the code and the source of the failed transfer, the DEVICE cause, no
transfer in flight and no index moved, every enabled axis halted; the place of a CPL write that failed itself
stays WRITING. A transfer that is not in flight does not fail (log entry 4). -/
def Obligations.BusFaultStopsThePart : Prop :=
  ∀ (s : State) (x : Transfer), s.resetHeld = false →
    let t := s.busFault x
    (s.inProgress x = false → exec (.busFault x) s = .next s) ∧
    (s.inProgress x = true → exec (.busFault x) s = .next t.finish) ∧
    t.dev = .fault ∧ t.enable = s.enable ∧ t.moderator.causeDevice = true ∧
    t.faultCode = (match x with | .setupRead | .fetch _ => .busRead | .cplWrite | .report _ => .busWrite) ∧
    t.faultSource =
      (match x with | .setupRead => .setup | .fetch r | .report r => .ring r | .cplWrite => .cpl) ∧
    (∀ r, t.ring r = { s.ring r with fetch := .idle, report := .idle }) ∧ t.cpl = s.cpl ∧
    t.queue.writing = (if x = .cplWrite then s.queue.writing else none) ∧
    (∀ a, ¬ live t a) ∧ (t.cte = .idle ∨ ∃ b, t.cte = .barrier b)

/-- The end of the drain and of a fault. Exactly where the conditions of R174 hold does DS_DRAIN end, with
the DEVICE cause; exactly where ENABLE is 0 and every axis stands does DS_FAULT end, with the queue, the owed
list, the windows and the bank uses discarded, the capture units disarmed, and the fault record, the DEVICE
cause and the halted axes kept (R176). -/
def Obligations.DrainAndFaultEndAtRest : Prop :=
  ∀ s : State,
    let still : Prop := ∀ a, (s.mg a).motion = .still
    let quiet : Prop := still ∧ s.queue = .reset ∧ s.owed = [] ∧
      ∀ r, (s.ring r).fetch = .idle ∧ (s.ring r).report = .idle
    (s.dev = .drain → quiet → s.drainEnd =
      { s with dev := .off, moderator := { s.moderator with causeDevice := true } }) ∧
    (¬ (s.dev = .drain ∧ quiet) → s.drainEnd = s) ∧
    (s.dev = .fault → s.enable = false → still →
      let t := s.faultExit
      t.dev = .off ∧ t.queue = .reset ∧ t.owed = [] ∧ (∀ b, t.bank b = { s.bank b with uses := 0 }) ∧
      (∀ u, t.cap u = .disarmed) ∧ t.faultCode = s.faultCode ∧ t.faultSource = s.faultSource ∧
      t.moderator = s.moderator ∧ (∀ a, (t.seq a) = { s.seq a with window := [] }) ∧
      ∀ a, (t.mg a).pos = (s.mg a).pos) ∧
    (¬ (s.dev = .fault ∧ s.enable = false ∧ still) → s.faultExit = s)

/-! ### Records -/

/-- The 32 bytes of a completion record, field by field (section 11.3, R181), and the codes that the records
and the answers carry: kinds, command statuses, rejections, halt reasons, and the states of an axis, of its MG,
of a rendezvous entry and of a capture unit. -/
def Obligations.CompletionRecordLayout : Prop :=
  ([.segDone, .segAborted, .segRejected, .cmdDone, .axisHalted, .capture, .signalOverflow,
      .drainFlush].map CplKind.code = [1, 2, 3, 4, 5, 6, 7, 8] ∧
    [.ok, .badCommand, .badField, .axisBusy, .bankInUse, .notHalted, .entryBusy, .unitBusy, .lineActive,
      .barrierHalted, .draining].map CmdStatus.code = [0, 1, 2, 3, 4, 5, 6, 7, 8, 9, 10] ∧
    [.badField, .noHomeLine, .positionRange, .bankEmpty, .velocityLimit, .softLimitTarget,
      .directionBlocked, .rdvClosed, .rdvNotMember, .rdvBroken].map RejectReason.code =
      [2, 0x20, 0x21, 0x22, 0x23, 0x24, 0x25, 0x26, 0x27, 0x28] ∧
    reasonCode none = 0 ∧ [.limitNeg, .limitPos, .softLimitNeg, .softLimitPos, .following, .encoder, .host,
      .stopAll, .reject, .underrun, .group, .homeFail, .bus, .drain].map (fun r => reasonCode (some r)) =
      [0x40, 0x41, 0x42, 0x43, 0x44, 0x45, 0x46, 0x47, 0x48, 0x49, 0x4A, 0x4B, 0x4C, 0x4D] ∧
    (∀ r : HaltReason, reasonCode (some r) = r.code) ∧
    [.off, .empty, .wait .cond, .wait .place, .run, .halting, .halted].map SqState.code =
      [0, 1, 2, 2, 3, 4, 5] ∧
    [.off, .empty, .wait .cond, .wait .place, .run, .halting, .halted].map SqState.subCode =
      [0, 0, 1, 2, 0, 0, 0] ∧
    [.still, .accel, .cruise, .decel, .hold, .stopRamp].map MotionState.code = [0, 1, 2, 3, 4, 5] ∧
    [.closed, .opened, .broken].map RdvState.code = [0, 1, 2] ∧
    ∀ c p, [.disarmed, .armed c, .armedPending c p, .spentPending c p].map CapUnit.code = [0, 1, 2, 3]) ∧
  ∀ (c : Completion) (phase : Bool),
    let r := c.bytes phase
    byteAt r 0 = c.kind.code ∧ byteAt r 1 = c.ring ∧ halfAt r 2 = c.seq ∧ halfAt r 4 = c.tag ∧
    byteAt r 6 = c.status ∧ byteAt r 7 = c.second ∧ wordAt r 8 = c.pos ∧ wordAt r 12 = c.aux ∧
    wordAt r 16 = c.time ∧ byteAt r 20 = (if c.notify then 1 else 0) ∧
    zeroBytes r 21 31 = true ∧ byteAt r 31 = (if phase then 1 else 0)

/-- Reading a segment record gives back the fields it was written from: its tag, NOTIFY, and every field
within its range, with the bank that a kind other than DWELL and MARK uses (section 11.1, R2, R179). A record
has fields exactly where each requirement of R2 by kind and by start condition and of the encoding of R179
holds, so that any other is a BAD_FIELD; its tag, its NOTIFY and the bank it uses are read from it all the
same. -/
def Obligations.SegmentRecordsRoundTrip : Prop :=
  (∀ r : Record,
    let g := decodeSegment r
    let kind := (byteAt r 0).toNat
    let start := (byteAt r 1).toNat
    let flags := byteAt r 5
    let arg0 := (byteAt r 6).toNat
    let arg1 := (byteAt r 7).toNat
    let threshold := (wordAt r 8).toInt
    let target := (wordAt r 12).toInt
    let velocity := (wordAt r 16).toNat
    let only (allowed : Byte) : Prop := flags &&& ~~~allowed = 0
    let works : Prop :=
      ((kind = 1 ∨ kind = 2) ∧ 1 ≤ velocity ∧ velocity ≤ 1000000 ∧ only 1) ∨
      (kind = 3 ∧ velocity = 0 ∧ target.natAbs ≤ 1000000 ∧ only 3) ∨
      ((kind = 4 ∨ kind = 7) ∧ velocity = 0 ∧ target = 0 ∧ only 1) ∨
      (kind = 5 ∧ velocity = 0 ∧ 1 ≤ target ∧ only 1) ∨
      (kind = 6 ∧ 1 ≤ velocity ∧ velocity ≤ 1000000 ∧ only 13)
    let starts : Prop :=
      (start = 0 ∧ arg0 = 0 ∧ arg1 = 0 ∧ threshold = 0) ∨
      (start = 1 ∧ arg0 ≤ 11 ∧ 1 ≤ arg1 ∧ arg1 ≤ 3 ∧ threshold = 0) ∨
      (start = 2 ∧ arg0 ≤ 15 ∧ arg1 = 0 ∧ threshold = 0) ∨
      (start = 3 ∧ arg0 ≤ 3 ∧ 1 ≤ arg1 ∧ arg1 ≤ 2) ∨
      (start = 4 ∧ arg0 ≤ 7 ∧ arg1 = 0 ∧ threshold = 0)
    (g.body ≠ none ↔ works ∧ starts ∧ (byteAt r 4).toNat ≤ 7 ∧ (byteAt r 20).toNat ≤ 16 ∧
      (byteAt r 21).toNat ≤ 15 ∧ (byteAt r 22).toNat ≤ 15 ∧ (byteAt r 23).toNat ≤ 15 ∧
      (byteAt r 24).toNat ≤ 15 ∧ zeroBytes r 25 32 = true) ∧
    g.tag = halfAt r 2 ∧ g.notify = flags.getLsbD 0 ∧
    ∀ k : BankNo, g.bankUse = some k ↔
      1 ≤ kind ∧ kind ≤ 6 ∧ kind ≠ 5 ∧ (byteAt r 4).toNat = k.val) ∧
  ∀ (tag : BitVec 16) (notify : Bool) (b : SegBody), b.wf = true →
    decodeSegment (encodeSegment tag notify b) = ⟨tag, notify, b.bankUse, some b⟩

/-! ### Commands of the CTL ring -/

/-- The take and the end of a command (R134, R136, R138, R139, R180). A record is taken at the completion of
the CTL fetch only: where none is in flight no command of the ring occurs (log entry 4), nor while the RESET
line is held (log entry 9). The take passes the consumer index over the one record. It is judged by its kind
first: a kind that names no command ends with BAD_COMMAND, and a record that names another command than the
row's is not taken at the row (log entry 24). Of its own kind, flags beyond NOTIFY, a byte that its kind does
not list, and a number out of range in the byte at offset 4 end with BAD_FIELD, and nothing else is done (log
entry 34 for the zero answers). The CMD_DONE goes into the place reserved for it, and the CTE is idle. -/
def Obligations.CommandsAreTakenAndDone : Prop :=
  (∀ (s : State) (r : Record),
    let named : Prop := 1 ≤ (byteAt r 0).toNat ∧ (byteAt r 0).toNat ≤ 16
    (∀ c ∈ Instr.unknownCommandKind r :: ctlCommands r, ¬ takes s → exec c s = .next s) ∧
    (takes s →
      (∀ c ∈ Instr.unknownCommandKind r :: ctlCommands r, ¬ named →
        exec c s = .next (commandEnd s s.takeCtl r ⟨.badCommand, 0, 0, 0⟩)) ∧
      (named → exec (.unknownCommandKind r) s = .next s) ∧
      ∀ i c last top, (ctlRows r)[i]? = some (c, last, top) →
        (named → (byteAt r 0).toNat ≠ i + 1 → exec c s = .next s) ∧
        ((byteAt r 0).toNat = i + 1 →
          1 < (byteAt r 1).toNat ∨ zeroBytes r last 32 = false ∨ top ≤ (byteAt r 4).toNat →
          exec c s = .next (commandEnd s s.takeCtl r ⟨.badField, 0, 0, 0⟩))) ∧
    (s.takeCtl.ring ctl).cons = ((s.ring ctl).cons + 1) % (s.ring ctl).size ∧
    (s.takeCtl.ring ctl).seqNo = (s.ring ctl).seqNo + 1 ∧ (s.takeCtl.ring ctl).fetch = .idle ∧
    { s.takeCtl with rings := s.rings } = s) ∧
  ∀ (s : State) (seq tag : BitVec 16) (notify : Bool) (x : Answer), Holder.cte ∈ s.queue.reserved →
    s.endCommand seq tag notify x = { s with
      cte := .idle
      queue := { s.queue with
        reserved := s.queue.reserved.erase .cte
        filled := s.queue.filled ++ [{ kind := .cmdDone, ring := 4, seq := seq, tag := tag
                                       status := x.status.code, second := x.byte, pos := x.first
                                       aux := x.second, time := s.time, notify := notify }] } }

/-- CONFIG_AXIS by its arguments and the state of the axis (R141, R10): BAD_FIELD, AXIS_BUSY, DRAINING, or
its execution. The arguments pass their tests exactly where they stand at the offsets of section 11.2 and
within the ranges of R140 (log entry 34 for the zero answers of a BAD_FIELD). -/
def Obligations.ConfigAxisIsJudgedByState : Prop :=
  (∀ (r : Record) (a : Axis) (c : AxisConfig), argConfigAxis r = some (a, c) ↔
      (byteAt r 1).toNat ≤ 1 ∧ a.val = (byteAt r 4).toNat ∧ (byteAt r 5).toNat < 32 ∧
      c.enabled = (byteAt r 5).getLsbD 0 ∧ (c.limitAction = .hard ↔ (byteAt r 5).getLsbD 1 = true) ∧
      c.softLimits = (byteAt r 5).getLsbD 2 ∧ (c.faultAction = .hard ↔ (byteAt r 5).getLsbD 3 = true) ∧
      c.disableOnFault = (byteAt r 5).getLsbD 4 ∧
      (byteAt r 6).toNat = (c.limitNeg.map fun l => l.val + 1).getD 0 ∧
      (byteAt r 7).toNat = (c.limitPos.map fun l => l.val + 1).getD 0 ∧
      (byteAt r 8).toNat = (c.homeLine.map fun l => l.val + 1).getD 0 ∧
      c.tolerance = (byteAt r 9).toNat + 256 * (halfAt r 10).toNat ∧ c.tolerance ≤ 1000000 ∧
      c.lo = (wordAt r 12).toInt ∧ c.hi = (wordAt r 16).toInt ∧ (c.softLimits = true → c.lo < c.hi) ∧
      c.stopDecel = (wordAt r 20).toNat ∧ 1 ≤ c.stopDecel ∧ c.stopDecel ≤ 8000000 ∧
      c.vmax = (wordAt r 24).toNat ∧ 1 ≤ c.vmax ∧ c.vmax ≤ 1000000 ∧
      c.encNum = (halfAt r 28).toNat ∧ 1 ≤ c.encNum ∧ c.encDen = (halfAt r 30).toNat ∧ 1 ≤ c.encDen) ∧
  (∀ (s : State) (r : Record), takesKind s r 1 → argConfigAxis r = none →
    exec (.configAxis r) s = .next (commandEnd s s.takeCtl r ⟨.badField, 0, 0, 0⟩)) ∧
  ∀ (s : State) (r : Record) (a : Axis) (c : AxisConfig), takesKind s r 1 →
    argConfigAxis r = some (a, c) →
    let q := (s.seq a).sq
    let settled : Prop := q = .off ∨ q = .halted ∨ (q = .empty ∧ (s.mg a).motion = .still)
    let u := s.takeCtl
    (¬ settled → exec (.configAxis r) s = .next (commandEnd s u r ⟨.axisBusy, q.code, 0, 0⟩)) ∧
    (s.dev = .drain → q = .off → c.enabled = true →
      exec (.configAxis r) s = .next (commandEnd s u r ⟨.draining, 0, 0, 0⟩)) ∧
    (settled → ¬ (s.dev = .drain ∧ q = .off) → c.enabled = true → exec (.configAxis r) s =
      .next (commandEnd s (u.configEnabled a c).1 r (u.configEnabled a c).2)) ∧
    (settled → c.enabled = false → exec (.configAxis r) s =
      .next (commandEnd s (u.configDisabled a c).1 r (u.configDisabled a c).2))

/-- What an executed CONFIG_AXIS leaves (R141, R10, R23, R91, R92, R110, R113): the new items; with enabled
an axis from SQ_OFF is SQ_EMPTY, or halted by an active stop-all line, and any other keeps its state, halt
reason and window; disabled it is SQ_OFF with an empty window, whose flush range is the answer; in every case
the deviation is 0, the monitor ARMED, ENA not dropped, and the blocks are recomputed (log entry 38: the stop
kind of that halt; log entry 28: the entries that a disabled axis had arrived at). -/
def Obligations.ConfigAxisEffect : Prop :=
  ∀ (s : State) (a : Axis) (c : AxisConfig),
    let fresh (t : State) : Prop := t.cfg a = c ∧ t.deviation a = 0 ∧
      (t.fbm a).tripped = false ∧ (t.fbm a).enaDropped = false ∧
      (t.seq a).lineNeg = s.levelOf c.limitNeg ∧ (t.seq a).linePos = s.levelOf c.limitPos ∧
      (t.seq a).posNeg = beyondNeg c (s.mg a).pos ∧ (t.seq a).posPos = beyondPos c (s.mg a).pos
    (let p := s.configEnabled a c;
      p.1.cfg a = c ∧ p.2 = ⟨.ok, (p.1.seq a).sq.code, 0, (s.ring (axisRing a)).seqNo.setWidth 32⟩ ∧
      ((s.seq a).sq ≠ .off ∨ s.stopLineActive = false → fresh p.1 ∧
        (p.1.seq a).sq = (if (s.seq a).sq = .off then .empty else (s.seq a).sq) ∧
        (p.1.seq a).reason = (if (s.seq a).sq = .off then none else (s.seq a).reason) ∧
        (p.1.seq a).window = (s.seq a).window) ∧
      ((s.seq a).sq = .off → s.stopLineActive = true → (s.mg a).motion = .still → rdvOk s →
        fresh p.1 ∧ (p.1.seq a).sq = .halted ∧ (p.1.seq a).reason = some .stopAll)) ∧
    (rdvOk s →
      let p := s.configDisabled a c;
      fresh p.1 ∧ (p.1.seq a).sq = .off ∧ (p.1.seq a).reason = none ∧ (p.1.seq a).window = [] ∧
      p.2 = ⟨.ok, 0, BitVec.ofNat 32 ((s.seq a).window.length + s.inFlight a),
        ((s.seq a).window.head?.elim (s.ring (axisRing a)).seqNo Entry.seq).setWidth 32⟩)

/-- CONFIG_LINE (R130, R143): a change of polarity or filter time takes the raw level at once without an edge
and cancels the pending change, and the limit roles act where the level has changed, at one step (R155, log
entry 25), before the stop-all role (log entry 13), which acts where it is newly given, or the level newly
active. Its arguments pass their tests exactly within the ranges of R143 (log entry 34 for the zero answers of
a BAD_FIELD). -/
def Obligations.ConfigLineTakesTheLevel : Prop :=
  ∀ (s : State) (r : Record) (l : Line), takesKind s r 2 →
    (byteAt r 1).toNat ≤ 1 → (byteAt r 4).toNat = l.val → zeroBytes r 10 32 = true →
    let f := (halfAt r 6).toNat
    let low : Bool := byteAt r 5 == 1
    let stop : Option StopKind :=
      if byteAt r 8 = 1 then some (if byteAt r 9 = 1 then .hard else .soft) else none
    let legal : Prop := (byteAt r 5).toNat ≤ 1 ∧ (byteAt r 8).toNat ≤ 1 ∧ (byteAt r 9).toNat ≤ 1 ∧
      f ≤ 1023 ∧ (byteAt r 8 = 0 → byteAt r 9 = 0)
    let x := s.line l
    let anew : Bool := low != x.activeLow || f != x.filterTime
    let y : LineState :=
      if anew then ⟨x.pin, low, f, stop, x.pin != low, none⟩ else { x with stopAll := stop }
    let u := s.takeCtl.modLine l fun _ => y
    let v := if x.filtered = y.filtered then u else
      u.atOneStep (allAxes.map fun a => (a, State.limitRoles l y.filtered a))
    let t := if y.filtered ∧ (x.stopAll = none ∨ x.filtered = false) then
      (match stop with | some k => v.stopAllRequest k | none => v) else v
    (legal → exec (.configLine r) s = .next
      (commandEnd s t r ⟨.ok, flagByte anew, flagWord x.filtered, flagWord y.filtered⟩)) ∧
    (¬ legal → exec (.configLine r) s =
      .next (commandEnd s s.takeCtl r ⟨.badField, 0, 0, 0⟩))

/-- SET_POSITION (R145, R73): accepted in SQ_OFF, in SQ_EMPTY with MG_STILL and in SQ_HALTED, AXIS_BUSY
elsewhere; it sets the commanded position without a step, serves the watchers, makes the deviation 0 with the
monitor ARMED and recomputes the position components; the answers are those of before (log entry 34 for the
zero answers of a BAD_FIELD). The watchers served at a position are those whose test holds there (R29, R30,
R71): they leave the set, and each axis that waits with one claims its place, in ascending axis number
(R155). The test of a position component is that of R92: beyond the bound of its side with soft limits enabled,
or at the end of the range. -/
def Obligations.SetPositionWhereSettled : Prop :=
  (∀ (c : AxisConfig) (p : Int),
    (beyondPos c p = true ↔ (c.softLimits = true ∧ c.hi < p) ∨ p = 2147483647) ∧
    (beyondNeg c p = true ↔ (c.softLimits = true ∧ p < c.lo) ∨ p = -2147483648)) ∧
  (∀ (s : State) (r : Record) (a : Axis), takesKind s r 3 → (byteAt r 1).toNat ≤ 1 →
    (byteAt r 4).toNat = a.val → zeroBytes r 12 32 = true →
    let p := (wordAt r 8).toInt
    let q := (s.seq a).sq
    let settled : Prop := q = .off ∨ q = .halted ∨ (q = .empty ∧ (s.mg a).motion = .still)
    let x (st : CmdStatus) : Answer := ⟨st, q.code, BitVec.ofInt 32 (s.mg a).pos, (s.fbm a).count⟩
    let t := s.takeCtl.setPosition a p
    (zeroBytes r 5 8 = true → settled → exec (.setPosition r) s = .next (commandEnd s t r (x .ok))) ∧
    (zeroBytes r 5 8 = true → ¬ settled →
      exec (.setPosition r) s = .next (commandEnd s s.takeCtl r (x .axisBusy))) ∧
    (zeroBytes r 5 8 = false →
      exec (.setPosition r) s = .next (commandEnd s s.takeCtl r ⟨.badField, 0, 0, 0⟩)) ∧
    t = (((s.takeCtl.modMg a fun m => { m with pos := p }).serveWatchers a).rebase a).recomputePosBlocks a ∧
    (t.mg a).pos = p ∧ (t.mg a).pulses = (s.mg a).pulses ∧ t.deviation a = 0 ∧
    (t.fbm a).tripped = false ∧ (t.fbm a).count = (s.fbm a).count ∧
    (t.fbm a).enaDropped = (s.fbm a).enaDropped ∧
    (t.seq a).posNeg = beyondNeg (s.cfg a) p ∧ (t.seq a).posPos = beyondPos (s.cfg a) p ∧
    (t.seq a).lineNeg = (s.seq a).lineNeg ∧ (t.seq a).linePos = (s.seq a).linePos) ∧
  ∀ (s : State) (w : Axis),
    let p := (s.mg w).pos
    let met (b : Axis) : Bool := match (s.mg w).watchers.get b with
      | some x => if x.up then decide (x.threshold ≤ p) else decide (p ≤ x.threshold)
      | none => false
    let t := s.serveWatchers w
    (∀ b, (t.mg w).watchers.get b = if met b then none else (s.mg w).watchers.get b) ∧
    (∀ b, (t.seq b).sq =
      if met b = true ∧ (s.seq b).sq = .wait .cond then .wait .place else (s.seq b).sq) ∧
    t.claims = s.claims ++
      ((allAxes.filter fun b => met b && (s.seq b).sq == .wait .cond).map Claim.axis) ∧
    (t.mg w).pos = p ∧ t.outs = s.outs ∧ t.queue = s.queue

/-- SET_OUTPUTS (R144): each output in the mask takes its value and the others keep theirs; the answers are the
outputs before and after. A mask or a value beyond OUT3 is a BAD_FIELD (log entry 34 for its zero answers). -/
def Obligations.SetOutputsTakesTheMask : Prop :=
  ∀ (s : State) (r : Record), takesKind s r 4 → (byteAt r 1).toNat ≤ 1 → zeroBytes r 6 32 = true →
    let m : BitVec 4 := (byteAt r 4).setWidth 4
    let v : BitVec 4 := (byteAt r 5).setWidth 4
    (15 < (byteAt r 4).toNat ∨ 15 < (byteAt r 5).toNat → exec (.setOutputs r) s =
      .next (commandEnd s s.takeCtl r ⟨.badField, 0, 0, 0⟩)) ∧
    ((byteAt r 4).toNat ≤ 15 → (byteAt r 5).toNat ≤ 15 → ∃ o : BitVec 4,
      (∀ i : Fin 4, o.getLsbD i = if m.getLsbD i then v.getLsbD i else s.outs.getLsbD i) ∧
      exec (.setOutputs r) s = .next
        (commandEnd s { s.takeCtl with outs := o } r ⟨.ok, 0, s.outs.setWidth 32, o.setWidth 32⟩))

/-- BARRIER at its execution (R146, R147, R150): in DS_DRAIN it ends with DRAINING (before the rest, log
entry 29); with a named axis halted with BARRIER_HALTED and the first such axis; with every named axis
satisfied with OK; and otherwise the CTE waits, with the records counted that are posted and not in
flight. A waiting one ends with OK where every named axis is satisfied, and with BARRIER_HALTED at a halt
event of a named axis of any reason but DRAIN; each counted record that the consumer index passes lowers the
count of its axis, and the one that was in flight at the execution does not; the answer words are the named
axes that were not satisfied and those that were halted. -/
def Obligations.BarrierEndsOrWaits : Prop :=
  (∀ (s : State) (r : Record), takesKind s r 5 → (byteAt r 1).toNat ≤ 1 → (byteAt r 4).toNat ≤ 15 →
    zeroBytes r 5 32 = true →
    let m : BitVec 4 := (byteAt r 4).setWidth 4
    let u := s.takeCtl
    let b := u.barrierRec r (s.ring ctl).seqNo m
    let stopped (a : Axis) : Prop := m.getLsbD a = true ∧ ((s.seq a).sq = .halting ∨ (s.seq a).sq = .halted)
    let done (a : Axis) : Prop := m.getLsbD a = true → (s.seq a).sq = .off ∨ ((s.seq a).sq = .empty ∧
      ((s.mg a).motion = .still ∨ (s.mg a).motion = .hold) ∧ b.counts.get a = 0)
    (s.dev = .drain → exec (.barrier r) s = .next (u.endBarrier b .draining 0xFF).finish) ∧
    (∀ a, s.dev ≠ .drain → stopped a → (∀ c, c < a → ¬ stopped c) →
      exec (.barrier r) s = .next (u.endBarrier b .barrierHalted (BitVec.ofNat 8 a.val)).finish) ∧
    (s.dev ≠ .drain → (∀ a, ¬ stopped a) → (∀ a, done a) →
      exec (.barrier r) s = .next (u.endBarrier b .ok 0xFF).finish) ∧
    (s.dev ≠ .drain → (∀ a, ¬ stopped a) → (¬ ∀ a, done a) →
      exec (.barrier r) s = .next { u with cte := .barrier b }.finish) ∧
    b.seq = (s.ring ctl).seqNo ∧ b.tag = halfAt r 2 ∧ b.notify = (byteAt r 1).getLsbD 0 ∧ b.axes = m ∧
    (∀ a : Axis, b.skip.get a = decide ((s.ring (axisRing a)).fetch = .inFlight) ∧
      (m.getLsbD a = true → b.counts.get a =
      ((s.ring (axisRing a)).prod + (s.ring (axisRing a)).size - (s.ring (axisRing a)).cons)
        % (s.ring (axisRing a)).size - (if (s.ring (axisRing a)).fetch = .inFlight then 1 else 0)))) ∧
  (∀ (s : State) (b : BarrierRec), s.cte = .barrier b →
    let done (a : Axis) : Prop := (s.seq a).sq = .off ∨ ((s.seq a).sq = .empty ∧
      ((s.mg a).motion = .still ∨ (s.mg a).motion = .hold) ∧ b.counts.get a = 0)
    ((∀ a : Axis, b.axes.getLsbD a = true → done a) → s.judgeBarrier = s.endBarrier b .ok 0xFF) ∧
    ((¬ ∀ a : Axis, b.axes.getLsbD a = true → done a) → s.judgeBarrier = s) ∧
    (∀ (a : Axis) (r : HaltReason), b.axes.getLsbD a = true → r ≠ .drain →
      s.barrierHalt a r = s.endBarrier b .barrierHalted (BitVec.ofNat 8 a.val)) ∧
    (∀ (a : Axis) (r : HaltReason), b.axes.getLsbD a = false ∨ r = .drain → s.barrierHalt a r = s) ∧
    (∀ a : Axis, ∃ b', s.barrierPass a = { s with cte := .barrier b' } ∧
      b'.counts.get a = (if b.skip.get a then b.counts.get a else b.counts.get a - 1) ∧
      b'.skip.get a = false ∧
      (∀ c, c ≠ a → b'.counts.get c = b.counts.get c ∧ b'.skip.get c = b.skip.get c) ∧
      b'.axes = b.axes ∧ b'.seq = b.seq ∧ b'.tag = b.tag ∧ b'.notify = b.notify) ∧
    (∀ st byte, ∃ waits stops : BitVec 4,
      (∀ a : Axis, waits.getLsbD a = true ↔ b.axes.getLsbD a = true ∧ ¬ done a) ∧
      (∀ a : Axis, stops.getLsbD a = true ↔ b.axes.getLsbD a = true ∧
        ((s.seq a).sq = .halting ∨ (s.seq a).sq = .halted)) ∧
      s.endBarrier b st byte = s.endCommand b.seq b.tag b.notify
        ⟨st, byte, waits.setWidth 32, stops.setWidth 32⟩)) ∧
  ∀ (s : State) (a : Axis) (r : HaltReason), (∀ b, s.cte ≠ .barrier b) →
    s.judgeBarrier = s ∧ s.barrierHalt a r = s ∧ s.barrierPass a = s

/-- The two queries change nothing but what taking a command changes, and answer as R148 and R149 say (log
entry 34 for the zero answers of a BAD_FIELD). The set whose size QUERY_LINES answers is that of R129: the lines
that carry the stop-all role and are at their active level, each once; a stop-all line is active where the set
is not empty. -/
def Obligations.QueriesAnswerTheState : Prop :=
  (∀ s : State, (∀ l : Line, l ∈ s.stopAllSet ↔ (∃ k, (s.line l).stopAll = some k) ∧
      (s.line l).filtered = true) ∧ s.stopAllSet.Nodup ∧
    (s.stopLineActive = true ↔ ∃ (l : Line) (k : StopKind), (s.line l).stopAll = some k ∧
      (s.line l).filtered = true)) ∧
  ∀ (s : State) (r : Record), takes s → (byteAt r 1).toNat ≤ 1 →
    (byteAt r 0 = 7 → zeroBytes r 4 32 = true → ∃ w : Word,
      (∀ l : Fin 32, w.getLsbD l = if h : l.val < 12 then (s.line ⟨l, h⟩).filtered else false) ∧
      exec (.queryLines r) s = .next (commandEnd s s.takeCtl r
        ⟨.ok, BitVec.ofNat 8 s.stopAllSet.length, w, s.outs.setWidth 32⟩)) ∧
    ∀ a : Axis, byteAt r 0 = 6 → (byteAt r 4).toNat = a.val → zeroBytes r 6 32 = true →
      let q := s.seq a
      let ends (x : Answer) : Prop := exec (.queryAxis r) s = .next (commandEnd s s.takeCtl r x)
      (byteAt r 5 = 0 → ends ⟨.ok, (s.mg a).motion.code, BitVec.ofInt 32 (s.mg a).pos,
        BitVec.ofInt 32 (s.mg a).velocity⟩) ∧
      (byteAt r 5 = 1 → ends ⟨.ok, BitVec.ofNat 8 q.window.length,
        0#8 ++ reasonCode q.reason ++ q.sq.subCode ++ q.sq.code,
        0#28 ++ (BitVec.ofBool q.posPos ++ BitVec.ofBool q.linePos ++ BitVec.ofBool q.posNeg
          ++ BitVec.ofBool q.lineNeg)⟩) ∧
      (byteAt r 5 = 2 → ends ⟨.ok,
        0#6 ++ (BitVec.ofBool (s.fbm a).enaDropped ++ BitVec.ofBool (s.fbm a).tripped),
        (s.fbm a).count, BitVec.ofInt 32 (max posMin (min posMax (s.deviation a)))⟩) ∧
      (byteAt r 5 = 3 → ends ⟨.ok, 0, (s.fbm a).homeCount, BitVec.ofInt 32 (s.mg a).pos⟩) ∧
      (3 < (byteAt r 5).toNat → ends ⟨.badField, 0, 0, 0⟩)

/-- WRITE_BANK (R77): refused on a bank with a use count, and otherwise it writes the four values, which must
lie in their ranges (log entry 34 for the zero answers of a BAD_FIELD); and a written bank stays written until
power-on or the RESET line. -/
def Obligations.WriteBankFillsAnUnusedBank : Prop :=
  (∀ (s : State) (r : Record) (b : BankNo), takesKind s r 8 → (byteAt r 1).toNat ≤ 1 →
    (byteAt r 4).toNat = b.val → zeroBytes r 24 32 = true →
    let p : Profile :=
      ⟨(wordAt r 8).toNat, (wordAt r 12).toNat, (wordAt r 16).toNat, (wordAt r 20).toNat⟩
    let good : Prop := zeroBytes r 5 8 = true ∧ 1 ≤ p.accel ∧ p.accel ≤ 8000000 ∧ 1 ≤ p.decel ∧ p.decel ≤ 8000000 ∧
      p.vstart ≤ 1000000 ∧ p.vstop ≤ 1000000
    let x (st : CmdStatus) : Answer :=
      ⟨st, flagByte (s.bank b).written, BitVec.ofNat 32 (s.bank b).uses, 0⟩
    (good → 0 < (s.bank b).uses →
      exec (.writeBank r) s = .next (commandEnd s s.takeCtl r (x .bankInUse))) ∧
    (good → (s.bank b).uses = 0 → exec (.writeBank r) s = .next (commandEnd s
      (s.takeCtl.modBank b fun k => { k with profile := p, written := true }) r (x .ok))) ∧
    (¬ good →
      exec (.writeBank r) s = .next (commandEnd s s.takeCtl r ⟨.badField, 0, 0, 0⟩))) ∧
  ∀ (c : Instr) (s t : State) (b : BankNo), exec c s = .next t → isHardReset c = false →
    (s.bank b).written = true → (t.bank b).written = true

/-- POST_SIGNAL (R38): out of range it leaves the board (log entry 34 for the zero answers of a BAD_FIELD);
otherwise it posts, and answers the count after the post and whether it saturated. -/
def Obligations.PostSignalPosts : Prop :=
  ∀ (s : State) (r : Record), takesKind s r 9 → (byteAt r 1).toNat ≤ 1 → zeroBytes r 6 32 = true →
    let k := (byteAt r 5).toNat
    (15 < (byteAt r 4).toNat ∨ k = 0 ∨ 15 < k → exec (.postSignal r) s =
      .next (commandEnd s s.takeCtl r ⟨.badField, 0, 0, 0⟩)) ∧
    ∀ n : SignalNo, (byteAt r 4).toNat = n.val → 1 ≤ k → k ≤ 15 →
      let c := (s.signal n).count + k
      exec (.postSignal r) s = .next (commandEnd s (s.takeCtl.postSignal n k) r
        ⟨.ok, if 15 < c then 1 else 0, BitVec.ofNat 32 (min c 15), 0⟩)

/-- A post to a signal (R33, R34, R36): the count rises and saturates at 15, where the signal joins the
overflow mask, and with an empty mask a SIGNAL_OVERFLOW notice becomes owed, which a FREE place takes at the
same event with the mask as its aux word, the mask being emptied; no other signal and no waiter list changes;
and the head waiter, with the count above 0, claims its place. -/
def Obligations.PostRaisesTheCount : Prop :=
  ∀ (s : State) (n : SignalNo) (k : Nat),
    let t := s.postSignal n k
    let used := s.queue.reserved.length + s.queue.filled.length + (if s.queue.writing = none then 0 else 1)
    let served : Prop := (s.dev = .run ∨ s.dev = .drain) ∧ used < 8
    (t.signal n).count = min ((s.signal n).count + k) 15 ∧
    (t.signal n).waiters = (s.signal n).waiters ∧ (∀ m, m ≠ n → t.signal m = s.signal m) ∧
    ((s.signal n).count + k ≤ 15 →
      t.overflowMask = s.overflowMask ∧ t.owed = s.owed ∧ t.queue = s.queue) ∧
    (15 < (s.signal n).count + k →
      (s.overflowMask ≠ 0 → t.overflowMask = s.overflowMask ||| (1#16 <<< n.val) ∧
        t.overflowTime = s.overflowTime ∧ t.owed = s.owed ∧ t.queue = s.queue) ∧
      (s.overflowMask = 0 → ¬ served → t.overflowMask = 1#16 <<< n.val ∧ t.overflowTime = s.time ∧
        t.owed = s.owed ++ [.signalOverflow] ∧ t.queue = s.queue) ∧
      (s.overflowMask = 0 → served → s.owed = [] → t.overflowMask = 0 ∧ t.owed = [] ∧
        t.queue = { s.queue with filled := s.queue.filled ++
          [{ kind := .signalOverflow, ring := 0, seq := 0, tag := 0, status := 0, second := 0, pos := 0
             aux := (1#16 <<< n.val).setWidth 32, time := s.time, notify := true }] })) ∧
    (∀ a rest, (s.signal n).waiters = a :: rest → 0 < (s.signal n).count + k →
      (s.seq a).sq = .wait .cond → (t.seq a).sq = .wait .place ∧ Claim.axis a ∈ t.claims) ∧
    t.axes.map AxisState.mg = s.axes.map AxisState.mg ∧ t.rdv = s.rdv ∧ t.outs = s.outs

/-- CLEAR_SIGNAL (R39): the count becomes 0 and nothing else changes; the answers are the count before and the
number of waiters. A signal beyond 15 is a BAD_FIELD (log entry 34 for its zero answers). -/
def Obligations.ClearSignalClearsTheCount : Prop :=
  ∀ (s : State) (r : Record), takesKind s r 10 → (byteAt r 1).toNat ≤ 1 → zeroBytes r 5 32 = true →
    (15 < (byteAt r 4).toNat → exec (.clearSignal r) s =
      .next (commandEnd s s.takeCtl r ⟨.badField, 0, 0, 0⟩)) ∧
    ∀ n : SignalNo, (byteAt r 4).toNat = n.val → exec (.clearSignal r) s =
      .next (commandEnd s (s.takeCtl.modSignal n fun x => { x with count := 0 }) r
        ⟨.ok, 0, BitVec.ofNat 32 (s.signal n).count, BitVec.ofNat 32 (s.signal n).waiters.length⟩)

/-- OPEN_RENDEZVOUS and CLOSE_RENDEZVOUS by the state of the entry, and a member set that is empty or names an
axis beyond A3 (R41, R42; log entry 34 for the zero answers of a BAD_FIELD, log entry 36 for the second word
of a refused close). -/
def Obligations.RendezvousOpensAndCloses : Prop :=
  ∀ (s : State) (r : Record) (e : EntryNo), takes s → (byteAt r 1).toNat ≤ 1 →
    (byteAt r 4).toNat = e.val →
    let x := s.entry e
    let m : BitVec 4 := (byteAt r 5).setWidth 4
    let opens (t : State) (y : Answer) : Prop := exec (.openRendezvous r) s = .next (commandEnd s t r y)
    let closes (t : State) (y : Answer) : Prop := exec (.closeRendezvous r) s = .next (commandEnd s t r y)
    (byteAt r 0 = 11 → zeroBytes r 6 32 = true →
      (1 ≤ (byteAt r 5).toNat → (byteAt r 5).toNat ≤ 15 →
        (x.state = .closed →
          opens (s.takeCtl.modEntry e fun _ => ⟨.opened, m, 0, 0, 0⟩) ⟨.ok, 1, m.setWidth 32, 0⟩) ∧
        (x.state ≠ .closed →
          opens s.takeCtl ⟨.entryBusy, x.state.code, x.members.setWidth 32, 0⟩)) ∧
      ((byteAt r 5).toNat = 0 ∨ 15 < (byteAt r 5).toNat → opens s.takeCtl ⟨.badField, 0, 0, 0⟩)) ∧
    (byteAt r 0 = 12 → zeroBytes r 5 32 = true →
      let shut := s.takeCtl.modEntry e fun x => { x with state := .closed, members := 0, arrived := 0 }
      (x.state = .opened → x.arrived ≠ 0 →
        closes s.takeCtl ⟨.entryBusy, 1, x.arrived.setWidth 32, x.lastFire⟩) ∧
      (x.state = .opened → x.arrived = 0 → closes shut ⟨.ok, 1, x.fireCount.setWidth 32, x.lastFire⟩) ∧
      (x.state = .broken → closes shut ⟨.ok, 2, x.fireCount.setWidth 32, x.lastFire⟩) ∧
      (x.state = .closed → closes s.takeCtl ⟨.ok, 0, x.fireCount.setWidth 32, x.lastFire⟩))

/-- HALT (R105): nothing on an axis in SQ_OFF or SQ_HALTED, a further cause in SQ_HALTING, and a halt event
with reason HOST elsewhere; a kind beyond HARD is a BAD_FIELD (log entry 34 for its zero answers). -/
def Obligations.HaltActsByState : Prop :=
  ∀ (s : State) (r : Record) (a : Axis), takesKind s r 13 → (byteAt r 1).toNat ≤ 1 →
    (byteAt r 4).toNat = a.val → zeroBytes r 6 32 = true →
    let u := s.takeCtl
    let k : StopKind := if byteAt r 5 = 1 then .hard else .soft
    let q := s.seq a
    let ends (t : State) (byte : Byte) : Prop := exec (.halt r) s = .next (commandEnd s t r
      ⟨.ok, byte, (reasonCode (t.seq a).reason).setWidth 32, BitVec.ofInt 32 (s.mg a).pos⟩)
    ((byteAt r 5).toNat ≤ 1 →
      (q.sq = .off ∨ q.sq = .halted → ends u 0) ∧
      (q.sq = .halting → ends (u.furtherCause a .host k) 1) ∧
      (live s a → ends (haltEvent 5 a .host k false u) 2)) ∧
    (1 < (byteAt r 5).toNat →
      exec (.halt r) s = .next (commandEnd s u r ⟨.badField, 0, 0, 0⟩))

/-- RESUME (R106 to R108): refused in DS_DRAIN, on an axis that is not SQ_HALTED and while a stop-all line is
active, in that order; taken, it clears the halt reason, restores ENA and arms the monitor, and with KEEP the
axis is SQ_EMPTY or arms its candidate, with FLUSH its window and its ring up to the producer index are
discarded and the flush range answered. The test of the deviation follows what the execution has started (R115,
log entry 16). A mode beyond FLUSH is a BAD_FIELD (log entry 34 for its zero answers; log entry 46 for the
zero words of a refusal by state). -/
def Obligations.ResumeKeepsOrFlushes : Prop :=
  ∀ (s : State) (r : Record) (a : Axis), takesKind s r 14 → (byteAt r 1).toNat ≤ 1 →
    (byteAt r 4).toNat = a.val → zeroBytes r 6 32 = true →
    let q := s.seq a
    let byte := reasonCode q.reason
    let ends (t : State) (x : Answer) : Prop := exec (.resume r) s = .next (commandEnd s t r x)
    let u := (s.takeCtl.modSeq a fun q => { q with reason := none }).modFbm a fun f =>
      { f with tripped := false, enaDropped := false }
    let p := u.discard a (u.ring (axisRing a)).available
    (1 < (byteAt r 5).toNat → ends s.takeCtl ⟨.badField, 0, 0, 0⟩) ∧
    ((byteAt r 5).toNat ≤ 1 →
      (s.dev = .drain → ends s.takeCtl ⟨.draining, byte, 0, 0⟩) ∧
      (s.dev ≠ .drain → q.sq ≠ .halted → ends s.takeCtl ⟨.notHalted, 0, 0, 0⟩) ∧
      (s.dev ≠ .drain → q.sq = .halted → s.stopLineActive = true →
        ends s.takeCtl ⟨.lineActive, byte, 0, 0⟩) ∧
      (s.dev ≠ .drain → q.sq = .halted → s.stopLineActive = false →
        (byteAt r 5 = 0 → q.window = [] →
          ends ((u.setSq a .empty).serve.testDeviation a) ⟨.ok, byte, 0, 0⟩) ∧
        (byteAt r 5 = 0 → q.window ≠ [] →
          ends ((u.arm a).serve.testDeviation a) ⟨.ok, byte, BitVec.ofNat 32 q.window.length, 0⟩) ∧
        (byteAt r 5 = 1 → ends ((p.1.setSq a .empty).serve.testDeviation a)
          ⟨.ok, byte, BitVec.ofNat 32 p.2.2, p.2.1.setWidth 32⟩)))

/-- ARM_CAPTURE (R120): refused in DS_DRAIN and on a unit that is not DISARMED; otherwise the configuration is
stored and the unit ARMED. A field outside its range of R119 is a BAD_FIELD, whose answers are
zero (log entry 34). A refusal by state answers the unit's state
and the level as a taken command does (log entry 36). -/
def Obligations.ArmCaptureStoresItsConfiguration : Prop :=
  ∀ (s : State) (r : Record), takesKind s r 15 → (byteAt r 1).toNat ≤ 1 → zeroBytes r 9 32 = true →
    (3 < (byteAt r 4).toNat ∨ 11 < (byteAt r 5).toNat ∨ (byteAt r 6).toNat = 0 ∨
        3 < (byteAt r 6).toNat ∨ 3 < (byteAt r 7).toNat ∨ 1 < (byteAt r 8).toNat →
      exec (.armCapture r) s = .next (commandEnd s s.takeCtl r ⟨.badField, 0, 0, 0⟩)) ∧
    ∀ (u : UnitNo) (l : Line) (g : CapEdge) (a : Axis) (k : Bool), (byteAt r 4).toNat = u.val →
      (byteAt r 5).toNat = l.val → byteAt r 6 = (match g with | .rise => 1 | .fall => 2 | .both => 3) →
      (byteAt r 7).toNat = a.val → byteAt r 8 = flagByte k →
      let level := flagWord (s.line l).filtered
      let ends (t : State) (x : Answer) : Prop := exec (.armCapture r) s = .next (commandEnd s t r x)
      (s.dev = .drain → ends s.takeCtl ⟨.draining, (s.cap u).code, level, 0⟩) ∧
      (s.dev ≠ .drain → s.cap u ≠ .disarmed →
        ends s.takeCtl ⟨.unitBusy, (s.cap u).code, level, 0⟩) ∧
      (s.dev ≠ .drain → s.cap u = .disarmed →
        ends (s.takeCtl.setCap u (.armed ⟨l, g, a, k⟩)) ⟨.ok, 1, level, 0⟩)

/-- DISARM_CAPTURE (R123): the unit becomes DISARMED, and an owed CAPTURE notice is withdrawn; the answers are
the state before, whether a notice was withdrawn, and its missed count. A unit beyond 3 is a BAD_FIELD (log
entry 34 for its zero answers). -/
def Obligations.DisarmCaptureWithdrawsTheNotice : Prop :=
  ∀ (s : State) (r : Record), takesKind s r 16 → (byteAt r 1).toNat ≤ 1 → zeroBytes r 5 32 = true →
    (3 < (byteAt r 4).toNat → exec (.disarmCapture r) s =
      .next (commandEnd s s.takeCtl r ⟨.badField, 0, 0, 0⟩)) ∧
    ∀ u : UnitNo, (byteAt r 4).toNat = u.val →
      let ends (t : State) (x : Answer) : Prop := exec (.disarmCapture r) s = .next (commandEnd s t r x)
      let gone := { s.takeCtl with owed := s.owed.filter fun o => o != Owed.capture u }.setCap u .disarmed
      (s.cap u = .disarmed → ends s.takeCtl ⟨.ok, 0, 0, 0⟩) ∧
      (∀ c, s.cap u = .armed c → ends (s.takeCtl.setCap u .disarmed) ⟨.ok, 1, 0, 0⟩) ∧
      (∀ c p, s.cap u = .armedPending c p → ends gone ⟨.ok, 2, 1, BitVec.ofNat 32 p.missed⟩) ∧
      (∀ c p, s.cap u = .spentPending c p → ends gone ⟨.ok, 3, 1, BitVec.ofNat 32 p.missed⟩)

/-! ### Starting, completing and halting segments -/

/-- The checks of arming pass exactly where each of the six holds, and otherwise the first that fails, in the
order of R13, gives the reason; the grant repeats 1c, 4 and 5 in that order (R16). A candidate that fails claims
a place to be rejected with its reason, and one that passes has its start condition judged (R12, R14, R15). The
sides toward which a segment would start motion are those of check 5. No segment that would start motion
toward a blocked side ever starts (R13, R16): at arming its candidate claims a place to be rejected, and at
the grant it is rejected. A rejection places SEG_REJECTED into the granted place, removes the entry, lowers
the use count of its bank and halts the axis with REJECT (R19, R20). -/
def Obligations.ArmingChecksPassExactly : Prop :=
  (∀ (s : State) (a : Axis) (g : Segment), s.armChecks a g = none ↔ ∃ b, g.body = some b ∧
    (∀ o v x y, b.work = .home o v x y → (s.cfg a).homeLine ≠ none) ∧
    (∀ d v, b.work = .moveRel d v → posMin ≤ (s.mg a).pos + d ∧ (s.mg a).pos + d ≤ posMax) ∧
    ((∀ d, b.work ≠ .dwell d) → b.work ≠ .mark → (s.bank b.bank).written = true) ∧
    (∀ v, (∃ t, b.work = .moveAbs t v ∨ b.work = .moveRel t v ∨ ∃ x y, b.work = .home t v x y) →
      v ≤ (s.cfg a).vmax) ∧
    (∀ v f, b.work = .run v f → v.natAbs ≤ (s.cfg a).vmax) ∧
    ((s.cfg a).softLimits = true → ∀ t, (∃ v, b.work = .moveAbs t v ∨
        b.work = .moveRel (t - (s.mg a).pos) v) → (s.cfg a).lo ≤ t ∧ t ≤ (s.cfg a).hi) ∧
    (∀ p, p ∈ s.sidesToward a b.work → (s.seq a).blocked p = false) ∧
    (∀ e, b.start = .waitRendezvous e → (s.entry e).state = .opened ∧
      inSet a (s.entry e).members = true)) ∧
  (∀ (s : State) (a : Axis) (g : Segment) (b : SegBody),
    let pos := (s.mg a).pos
    let c := s.cfg a
    let target : Option Int := match b.work with
      | .moveAbs t _ => some t
      | .moveRel d _ => some (pos + d)
      | _ => none
    let speed : Nat := match b.work with
      | .moveAbs _ v | .moveRel _ v | .home _ v _ _ => v
      | .run r _ => r.natAbs
      | .stop | .dwell _ | .mark => 0
    let lineless : Bool := match b.work with
      | .home _ _ _ _ => c.homeLine.isNone
      | _ => false
    let outside : Bool := match b.work with
      | .moveRel d _ => decide (pos + d < posMin) || decide (posMax < pos + d)
      | _ => false
    let empty : Bool := match b.work with
      | .dwell _ | .mark => false
      | _ => !(s.bank b.bank).written
    let beyond : Bool := match target with
      | some t => c.softLimits && (decide (t < c.lo) || decide (c.hi < t))
      | none => false
    let shut : Bool := (s.sidesToward a b.work).any (s.seq a).blocked
    let entry : Option RejectReason := match b.start with
      | .waitRendezvous e =>
        if (s.entry e).state = .closed then some .rdvClosed
        else if inSet a (s.entry e).members = false then some .rdvNotMember
        else if (s.entry e).state = .broken then some .rdvBroken else none
      | _ => none
    (g.body = none → s.armChecks a g = some .badField) ∧
    (g.body = some b → s.armChecks a g =
      if lineless then some .noHomeLine else if outside then some .positionRange
      else if empty then some .bankEmpty else if c.vmax < speed then some .velocityLimit
      else if beyond then some .softLimitTarget else if shut then some .directionBlocked else entry) ∧
    s.repeatChecks a b.work = (if outside then some .positionRange
      else if beyond then some .softLimitTarget else if shut then some .directionBlocked else none) ∧
    ∀ p, p ∈ s.sidesToward a b.work ↔ match b.work with
      | .moveAbs t _ => if p then pos < t else t < pos
      | .moveRel d _ => if p then 0 < d else d < 0
      | .run v _ => if p then 0 < v else v < 0
      | .home _ _ _ negative => p = !negative ∨
        (p = negative ∧ (s.mg a).motion = .still ∧ s.levelOf c.homeLine = true)
      | _ => False) ∧
  (∀ (s : State) (a : Axis),
    ((s.seq a).candidate = none → s.arm a = s) ∧
    ∀ e, (s.seq a).candidate = some e →
      (s.armChecks a e.seg = none → ∀ b, e.seg.body = some b → s.arm a = s.judgeStart a b.start) ∧
      ∀ why, s.armChecks a e.seg = some why → s.arm a = s.claimReject a why ∧
        ((s.arm a).seq a).sq = .wait .place ∧ (s.arm a).claims = s.claims ++ [.axis a] ∧
        ((s.arm a).seq a).window =
          { e with state := .pending (.waitReject why) } :: (s.seq a).window.tail) ∧
  (∀ (s : State) (a : Axis) (e : Entry) (b : SegBody) (p : Bool),
    (s.seq a).candidate = some e → e.seg.body = some b → p ∈ s.sidesToward a b.work →
    (s.seq a).blocked p = true →
    (∃ why, s.arm a = s.claimReject a why) ∧
    (e.state = .pending .waitStart → ∃ why, s.grantAxis a = s.reject a why)) ∧
  ∀ (s : State) (a : Axis) (e : Entry) (why : RejectReason),
    (s.seq a).candidate = some e → Holder.axis a ∈ s.queue.reserved →
    let t := s.rejectEntry a why
    (e.state = .pending (.waitReject why) → s.grantAxis a = s.reject a why) ∧
    s.reject a why = t.haltCause a .reject .soft false ∧
    t.queue = { s.queue with
      reserved := s.queue.reserved.erase (.axis a)
      filled := s.queue.filled ++
        [{ kind := .segRejected, ring := BitVec.ofNat 8 a.val, seq := e.seq, tag := e.seg.tag
           status := why.code, second := 0, pos := BitVec.ofInt 32 (s.mg a).pos
           aux := BitVec.ofInt 32 (s.mg a).velocity, time := s.time, notify := e.seg.notify }] } ∧
    t.seq a = { s.seq a with window := (s.seq a).window.tail } ∧
    (∀ k, (t.bank k).uses = (s.bank k).uses - if e.seg.bankUse = some k then 1 else 0) ∧
    t.outs = s.outs ∧ t.signals = s.signals ∧ t.mg a = s.mg a

/-- The five start conditions as they are judged at arming (R14, R26 to R31, R35, R43): a met one claims a
place, and otherwise the axis waits in SQ_WAIT/COND, in a signal's list, with a watcher, or arrived. At the last
arrival the entry claims for all its members, and each, the one that arrives and those that wait in SQ_WAIT/COND
since their own arrivals, enters SQ_WAIT/PLACE and waits to start, without a claim of its own (R44). A claim to
start puts the axis in SQ_WAIT/PLACE at the tail of the claims (R15, R155), and a wait changes no claim; the
candidate holds its progress (R4). -/
def Obligations.StartConditionsAreJudged : Prop :=
  (∀ (s : State) (a : Axis) (e : Entry), (s.seq a).candidate = some e →
    let t := s.claimStart a
    let u := s.waitCond a
    (t.seq a).sq = .wait .place ∧ t.claims = s.claims ++ [.axis a] ∧
    (t.seq a).window = { e with state := .pending .waitStart } :: (s.seq a).window.tail ∧
    (u.seq a).sq = .wait .cond ∧ u.claims = s.claims ∧
    (u.seq a).window = { e with state := .pending .waitCond } :: (s.seq a).window.tail ∧
    ∀ b, b ≠ a → t.seq b = s.seq b ∧ u.seq b = s.seq b) ∧
  ∀ (s : State) (a : Axis),
    s.judgeStart a .afterPrevious = s.claimStart a ∧
    (∀ l g, s.judgeStart a (.waitInput l g) =
      if g = .active ∧ (s.line l).filtered = true then s.claimStart a else s.waitCond a) ∧
    (∀ w up n, let t := s.judgeStart a (.waitPosition w up n);
      ((if up then n ≤ (s.mg w).pos else (s.mg w).pos ≤ n) → t = s.claimStart a) ∧
      (¬ (if up then n ≤ (s.mg w).pos else (s.mg w).pos ≤ n) →
        t = (s.setWatcher w a (some ⟨up, n⟩)).waitCond a)) ∧
    (∀ n, let t := s.judgeStart a (.waitSignal n);
      (t.signal n).waiters = (s.signal n).waiters ++ [a] ∧ (t.signal n).count = (s.signal n).count ∧
      (t.seq a).sq = .wait (if (s.signal n).waiters = [] ∧ 0 < (s.signal n).count then .place else .cond)) ∧
    (∀ e, let t := s.judgeStart a (.waitRendezvous e);
      (t.entry e).arrived = (s.entry e).arrived ||| axisBit a ∧
      ((s.entry e).arrived ||| axisBit a = (s.entry e).members ↔ t.claims = s.claims ++ [.fire e]) ∧
      ((s.entry e).arrived ||| axisBit a ≠ (s.entry e).members → (t.seq a).sq = .wait .cond) ∧
      ((s.entry e).arrived ||| axisBit a = (s.entry e).members →
        ∀ b, inSet b (s.entry e).members = true → b = a ∨ (s.seq b).sq = .wait .cond →
          (t.seq b).sq = .wait .place ∧ ∀ c, (s.seq b).candidate = some c →
            (t.seq b).window = { c with state := .pending .waitStart } :: (s.seq b).window.tail) ∧
      ∀ b, b ≠ a → inSet b (s.entry e).members = false ∨ (s.seq b).sq ≠ .wait .cond ∨
        (s.entry e).arrived ||| axisBit a ≠ (s.entry e).members → t.seq b = s.seq b)

/-- The start event (R17, R18): the bank's values become the active profile and its use count falls by one,
out_start is applied, the entry is ACTIVE at the head of the window and the axis SQ_RUN, a signal gives one
count and loses the axis from its list, whose next head is served where a count is left (R36), and no completion
record is made. The MG, with that profile, is handed
the motion of the kind, from the present position for a MOVE_REL, and a HOME begins its first phase (R18, R63).
At the grant of a place it follows
where the repeated checks pass and the condition still holds; where the count of its signal has gone, the
place is returned and the axis waits in SQ_WAIT/COND at its place in the list (R16, R37; log entry 15 for the
order of the two tests). -/
def Obligations.StartEventActivatesTheCandidate : Prop :=
  (∀ (s : State) (a : Axis) (e : Entry) (b : SegBody),
    (s.seq a).candidate = some e → e.seg.body = some b →
    let t := (s.startEvent a).1
    (t.seq a).sq = .run ∧
    (∃ h, (t.seq a).window = { e with state := .active h } :: (s.seq a).window.tail) ∧
    (∀ k, e.seg.bankUse = some k → (t.mg a).profile = (s.bank k).profile ∧
      (t.bank k).uses = (s.bank k).uses - 1) ∧
    (e.seg.bankUse = none → (t.mg a).profile = (s.mg a).profile ∧ t.banks = s.banks) ∧
    t.outs = (s.outs &&& ~~~b.outStart.mask) ||| (b.outStart.value &&& b.outStart.mask) ∧
    t.queue = s.queue ∧ (t.mg a).pos = (s.mg a).pos ∧
    (∀ n, b.start = .waitSignal n → (t.signal n).count = (s.signal n).count - 1 ∧
      (t.signal n).waiters = (s.signal n).waiters.filter (· != a)) ∧
    (∀ c, c ≠ a →
      let next : Prop := ∃ n, b.start = .waitSignal n ∧ (s.signal n).waiters.head? = some a ∧
        ((s.signal n).waiters.filter (· != a)).head? = some c ∧ 1 < (s.signal n).count ∧
        (s.seq c).sq = .wait .cond
      (next → (t.seq c).sq = .wait .place ∧ t.claims = s.claims ++ [.axis c]) ∧
      (¬ next → t.seq c = s.seq c)) ∧
    let m := match e.seg.bankUse with
      | some k => { s.mg a with profile := (s.bank k).profile }
      | none => s.mg a
    (t.mg a, (s.startEvent a).2) = (match b.work with
      | .moveAbs d v => m.startMove d v
      | .moveRel d v => m.startMove (m.pos + d) v
      | .run r _ => m.startRun r
      | .stop => m.startStop m.profile.decel
      | .dwell d => (m.startDwell (s.time + BitVec.ofNat 32 d), .none)
      | .home _ v _ negative => ((s.modMg a fun _ => m).firstPhase a v negative).2
      | .mark => (m, .holds)) ∧
    (t.seq a).homing = (match b.work with
      | .home _ v _ negative => some ((s.modMg a fun _ => m).firstPhase a v negative).1
      | _ => none)) ∧
  ∀ (s : State) (a : Axis) (e : Entry) (b : SegBody),
    (s.seq a).candidate = some e → e.seg.body = some b → e.state = .pending .waitStart →
    let p := s.startEvent a
    let back := s.grantAxis a
    (∀ why, s.repeatChecks a b.work = some why → back = s.reject a why) ∧
    (s.repeatChecks a b.work = none →
      ((∀ n, b.start = .waitSignal n → 0 < (s.signal n).count) → back = p.1.takeMgEvent a p.2) ∧
      (∀ n, b.start = .waitSignal n → (s.signal n).count = 0 →
        (back.seq a).sq = .wait .cond ∧
        (back.seq a).window = { e with state := .pending .waitCond } :: (s.seq a).window.tail ∧
        back.queue = { s.queue with reserved := s.queue.reserved.erase (.axis a) } ∧
        back.signals = s.signals ∧ back.mg a = s.mg a))

/-- The completion event (R64, R21, R66): out_end, SEG_DONE into the reserved place, the post, the entry
leaves the window, and then the next entry is armed, or the axis is SQ_EMPTY, or a RUN with MUST_FOLLOW halts
it with UNDERRUN. -/
def Obligations.CompletionEventInItsOrder : Prop :=
  ∀ (s : State) (a : Axis) (aux : Int) (e : Entry) (b : SegBody),
    (s.seq a).activeEntry = some e → e.seg.body = some b →
    let u : State := { s with outs := (s.outs &&& ~~~b.outEnd.mask) ||| (b.outEnd.value &&& b.outEnd.mask) }
    let v := u.fill (.axis a)
      { kind := .segDone, ring := BitVec.ofNat 8 a.val, seq := e.seq, tag := e.seg.tag, status := 0
        second := 0, pos := BitVec.ofInt 32 (s.mg a).pos, aux := BitVec.ofInt 32 aux, time := s.time
        notify := e.seg.notify }
    let w := match b.postSignal with | some n => v.postSignal n 1 | none => v
    let x := (w.modSeq a fun q => { q with window := q.window.tail }).modMg a fun m =>
      { m with goal := .none, reversing := false }
    let t := s.completionEvent a aux
    ((x.seq a).window ≠ [] → t = x.arm a) ∧
    ((x.seq a).window = [] → (∀ r, b.work ≠ .run r true) → t = x.setSq a .empty) ∧
    (∀ r, (x.seq a).window = [] → b.work = .run r true →
      t = (x.setSq a .empty).haltCause a .underrun .soft false)

/-- The homing run. The first phase by the motion and the home line (R63, R78). The turns at standstill with
the failures of R86: LEAD_IN goes to CLEAR or SEARCH by the home line, CLEAR to SEARCH, and SEARCH_BACK to its
reverse search (R78, R80, R82). The home edge by phase (R79 to R83): inactive in CLEAR it begins the descent,
active in SEARCH and in the reverse search it is the home edge, and any other is ignored. The home edge and
the end of SETTLE (R83, R84, R86): the edge records the home point and the encoder count, and above vstop the
MG descends onto the position that lies beyond it by the stopping distance in whole steps (R54), in MG_DECEL
throughout (log entry 19); at or below vstop SETTLE ends at once; at the end the position becomes the home
offset plus the distance travelled since, and the HOME completes with the home point in aux, or fails where
that lies outside the range. -/
def Obligations.HomeEdgeAndItsReReference : Prop :=
  (∀ (s : State) (a : Axis) (h : HomeState) (b : SegBody),
    let m := s.mg a
    let w : Nat := m.profile.vstop * m.profile.vstop
    ((s.seq a).homing = some h → (w : Rat) < m.speedSq →
      let t := s.homeEdge a h b
      let d : Int := ⌈(m.speedSq - w) / (2 * (m.profile.decel : Rat))⌉
      (t.seq a).homing = some ⟨.settle, h.searchPositive, some m.pos, some (s.fbm a).count⟩ ∧
      (t.fbm a).homeCount = (s.fbm a).count ∧ (t.fbm a).count = (s.fbm a).count ∧
      (t.mg a).goal = .position (if m.positive then m.pos + d else m.pos - d) ∧
      (t.mg a).motion = .decel ∧ (t.mg a).pos = m.pos ∧ (t.mg a).speedSq = m.speedSq) ∧
    ((s.seq a).homing = some h → m.speedSq ≤ (w : Rat) →
      let h' : HomeState := ⟨.settle, h.searchPositive, some m.pos, some (s.fbm a).count⟩
      ∃ t : State, s.homeEdge a h b = t.settleEnd a h' b ∧ (t.seq a).homing = some h' ∧
        (t.fbm a).homeCount = (s.fbm a).count ∧ (t.mg a).motion = .still ∧ (t.mg a).speedSq = 0 ∧
        (t.mg a).pos = m.pos) ∧
    (∀ o v x y p, b.work = .home o v x y → h.homePoint = some p →
      let new := o + (m.pos - p)
      (posMin ≤ new → new ≤ posMax → s.settleEnd a h b = (s.setPosition a new).completionEvent a p) ∧
      (new < posMin ∨ posMax < new → s.settleEnd a h b = s.haltCause a .homeFail .soft false))) ∧
  (∀ (s : State) (a : Axis) (v : Nat) (negative : Bool),
    let m := s.mg a
    let p := s.firstPhase a v negative
    let home : Bool := s.levelOf (s.cfg a).homeLine
    p.1.searchPositive = !negative ∧ p.1.homePoint = none ∧ p.1.edgeCount = none ∧
    (m.motion ≠ .still → p.1.phase = .leadIn ∧ p.2 = m.startStop m.profile.decel) ∧
    (m.motion = .still → home = true → p.1.phase = .clear ∧ p.2 = (m.startSeek negative v, .none)) ∧
    (m.motion = .still → home = false → p.1.phase = .search ∧ p.2 = (m.startSeek (!negative) v, .none)) ∧
    ∀ side, (m.startSeek side v).positive = side ∧
      (m.startSeek side v).goal = .velocity (if side then (v : Int) else -(v : Int)) ∧
      (m.startSeek side v).speedSq = ((min m.profile.vstart v * min m.profile.vstart v : Nat) : Rat) ∧
      (m.startSeek side v).motion = (if v ≤ m.profile.vstart then .cruise else .accel)) ∧
  (∀ (s : State) (a : Axis) (h : HomeState) (o : Int) (v : Nat) (x y : Bool) (b : SegBody),
    b.work = .home o v x y →
    let q := h.searchPositive
    let home : Bool := s.levelOf (s.cfg a).homeLine
    let again : Bool := home &&
      !((s.cfg a).homeLine.isSome && (s.cfg a).homeLine == (s.cfg a).limit q)
    let fails := s.haltCause a .homeFail .soft false
    let goes (p : HomePhase) (side : Bool) :=
      (s.setHoming a { h with phase := p }).modMg a fun m => m.startSeek side v
    s.homeStandstill a h b = match h.phase with
      | .leadIn =>
        if home then (if (s.seq a).blocked (!q) then fails else goes .clear (!q))
        else if (s.seq a).blocked q then fails else goes .search q
      | .clear => if (s.seq a).blocked q || again then fails else goes .search q
      | .searchBack => if (s.seq a).blocked (!q) || again then fails else goes .searchBack (!q)
      | .search | .settle => s) ∧
  ∀ (s : State) (a : Axis) (l : Line) (v : Bool) (h : HomeState) (b : SegBody),
    let seeks : Prop := ∃ r, (s.mg a).goal = .velocity r
    ((s.cfg a).homeLine ≠ some l → State.homeRole l v a s = s) ∧
    ((s.seq a).homing = none → State.homeRole l v a s = s) ∧
    ((s.cfg a).homeLine = some l → (s.seq a).homing = some h → s.activeBody a = some b →
      (h.phase = .search → State.homeRole l true a s = s.homeEdge a h b) ∧
      (h.phase = .searchBack → seeks → State.homeRole l true a s = s.homeEdge a h b) ∧
      (h.phase = .clear → seeks → State.homeRole l false a s =
        let p := (s.mg a).startStop (s.mg a).profile.decel
        let t := (s.setHoming a h).modMg a fun _ => p.1
        if p.2 = .standstill then t.homeStandstill a h b else t) ∧
      ((h.phase = .clear ∨ h.phase = .searchBack) → ¬ seeks → State.homeRole l v a s = s) ∧
      (h.phase = .leadIn ∨ h.phase = .settle ∨ (h.phase = .clear ∧ v = true) ∨
        (v = false ∧ (h.phase = .search ∨ h.phase = .searchBack)) → State.homeRole l v a s = s))

/-- A halt cause (R97, R98, R101, R104), of one axis alone or common to several. As a halt event it records the
reason, stops the MG by the cause's kind, aborts an active segment with SEG_ABORTED in its reserved place or
makes AXIS_HALTED owed, leaves the rest of the window PENDING and not armed and no watcher anywhere, and the
axis is SQ_HALTED where it stands and SQ_HALTING where it does not. Its claim is withdrawn (R15), and it leaves
its signal's waiter list (R35), where its departure as the head lets the next axis, waiting in SQ_WAIT/COND,
claim its place if the count is above 0, which stays (R36); its arrival is withdrawn, with the fire claim of
each OPEN entry of which it is a member that holds an arrival (R46). A waiting BARRIER that names the axis ends
at the halt event, of any reason but DRAIN, with BARRIER_HALTED, the axis in its byte, and the answer words of
that event; one that does not name it goes on waiting (R147). The AXIS_HALTED takes a FREE place at the same
event, in DS_RUN and DS_DRAIN and where nothing is owed before it (R155, R156); where a notice of the axis is
owed already, no new one is, and the reason becomes its second reason if it has none (R99). A cause of one axis
alone also breaks each OPEN entry of which the axis is a member and at which another had arrived, and each such
other axis halts with GROUP (R46), which ends a BARRIER that names it. As a further cause it makes a hard stop
or leaves the ramp, keeps the reason, and becomes the second reason of an owed notice that has none. Elsewhere
it does nothing. -/
def Obligations.HaltCauseByState : Prop :=
  ∀ (s : State) (a : Axis) (r : HaltReason) (k : StopKind) (common : Bool),
    common = true ∨ rdvOk s →
    let t := s.haltCause a r k common
    let m := match k with | .soft => (s.mg a).softStop (s.cfg a).stopDecel | .hard => (s.mg a).hardStop
    let note : Owed := .axisHalted a r none (BitVec.ofInt 32 (s.mg a).pos)
      (BitVec.ofInt 32 (s.mg a).velocity) s.time
    let placed : Completion :=
      { kind := .axisHalted, ring := BitVec.ofNat 8 a.val, seq := 0, tag := 0, status := r.code, second := 0
        pos := BitVec.ofInt 32 (s.mg a).pos, aux := BitVec.ofInt 32 (s.mg a).velocity, time := s.time
        notify := true }
    let addSecond (o : Owed) : Owed := match o with
      | .axisHalted b first none p v w =>
        if a = b then .axisHalted b first (some r) p v w else .axisHalted b first none p v w
      | o => o
    let served : Prop := (s.dev = .run ∨ s.dev = .drain) ∧
      s.queue.reserved.length + s.queue.filled.length + (if s.queue.writing = none then 0 else 1) < 8
    let alone : Prop := common = true ∨ ∀ (e : EntryNo) (b : Axis), (s.entry e).state = .opened →
      inSet a (s.entry e).members = true → inSet b (s.entry e).arrived = true → b = a
    let next (b : Axis) : Prop := ∃ n, (s.signal n).waiters.head? = some a ∧
      ((s.signal n).waiters.filter (· != a)).head? = some b ∧ 0 < (s.signal n).count ∧
      (s.seq b).sq = .wait .cond
    let stays (c : Claim) : Bool := match c with
      | .axis b => b != a
      | .fire e => common || !((s.entry e).state == .opened && inSet a (s.entry e).members
          && (s.entry e).arrived != 0)
    (live s a →
      (t.seq a).reason = some r ∧
      (t.seq a).sq = (if m.motion = .still then .halted else .halting) ∧
      t.mg a = { m with watchers := (t.mg a).watchers } ∧
      (∀ w, (t.mg w).watchers.get a = none) ∧
      (windowOk s → ∀ e ∈ (t.seq a).window, e.state = .pending .notArmed) ∧
      (∀ e, (s.seq a).activeEntry = some e →
        (t.seq a).window.map Entry.seq = (s.seq a).window.tail.map Entry.seq ∧
        (Holder.axis a ∈ s.queue.reserved → ∃ more, t.queue.filled = s.queue.filled ++
          { kind := .segAborted, ring := BitVec.ofNat 8 a.val, seq := e.seq, tag := e.seg.tag
            status := r.code, second := 0, pos := BitVec.ofInt 32 (s.mg a).pos
            aux := BitVec.ofInt 32 (s.mg a).velocity, time := s.time, notify := true } :: more)) ∧
      ((s.seq a).activeEntry = none →
        (t.seq a).window.map Entry.seq = (s.seq a).window.map Entry.seq ∧
        ((∃ o ∈ s.owed, isHaltNotice a o = true) → alone → t.owed = s.owed.map addSecond) ∧
        ((∀ o ∈ s.owed, isHaltNotice a o = false) →
          (note ∈ t.owed ∨ placed ∈ t.queue.filled) ∧
          (¬ served → note ∈ t.owed ∧ (alone → t.owed = s.owed ++ [note])) ∧
          (served → s.owed = [] → (∃ more, t.queue.filled = s.queue.filled ++ placed :: more) ∧
            (alone → t.owed = [])))) ∧
      .axis a ∉ t.claims ∧
      (∀ n, a ∉ (t.signal n).waiters ∧ (t.signal n).count = (s.signal n).count) ∧
      (alone → (∀ n, (t.signal n).waiters = (s.signal n).waiters.filter (· != a)) ∧
        (∃ new : List Axis, t.claims = s.claims.filter stays ++ new.map Claim.axis ∧ new.Nodup ∧
          ∀ b, b ∈ new ↔ next b) ∧
        ∀ b, b ≠ a → (¬ next b → t.seq b = s.seq b) ∧
          (next b → (t.seq b).sq = .wait .place ∧ ∀ c, (s.seq b).candidate = some c →
            (t.seq b).window = { c with state := .pending .waitStart } :: (s.seq b).window.tail)) ∧
      (common = false → ∀ e : EntryNo, (s.entry e).state = .opened →
        inSet a (s.entry e).members = true →
        ((∀ b, inSet b (s.entry e).arrived = true → b = a) → t.entry e = { s.entry e with arrived := 0 }) ∧
        ((s.entry e).arrived ≠ 0 → .fire e ∉ t.claims)) ∧
      (common = false → ∀ (e : EntryNo) (b : Axis), (s.entry e).state = .opened →
        inSet a (s.entry e).members = true → inSet b (s.entry e).arrived = true → b ≠ a →
        t.entry e = { s.entry e with state := .broken, arrived := 0 } ∧
        (t.seq b).reason = some .group ∧ ¬ live t b ∧
        ∀ w, s.cte = .barrier w → w.axes.getLsbD b = true → t.cte = .idle) ∧
      ∀ w, s.cte = .barrier w →
        let done (c : Axis) : Prop := (s.seq c).sq = .off ∨ ((s.seq c).sq = .empty ∧
          ((s.mg c).motion = .still ∨ (s.mg c).motion = .hold) ∧ w.counts.get c = 0)
        (w.axes.getLsbD a = true → r ≠ .drain → t.cte = .idle ∧
          (Holder.cte ∈ s.queue.reserved → ∃ waits stops : BitVec 4,
            (∀ c : Axis, waits.getLsbD c = true ↔ w.axes.getLsbD c = true ∧ (c = a ∨ ¬ done c)) ∧
            (∀ c : Axis, stops.getLsbD c = true ↔ w.axes.getLsbD c = true ∧
              (c = a ∨ (s.seq c).sq = .halting ∨ (s.seq c).sq = .halted)) ∧
            { kind := CplKind.cmdDone, ring := 4, seq := w.seq, tag := w.tag, status := 9
              second := BitVec.ofNat 8 a.val, pos := waits.setWidth 32, aux := stops.setWidth 32
              time := s.time, notify := w.notify } ∈ t.queue.filled)) ∧
        (w.axes.getLsbD a = false ∨ r = .drain → alone → t.cte = s.cte)) ∧
    ((s.seq a).sq = .halting →
      (t.seq a).reason = (s.seq a).reason ∧ (t.seq a).window = (s.seq a).window ∧
      (k = .soft → t.mg a = s.mg a ∧ (t.seq a).sq = .halting) ∧
      (k = .hard → t.mg a = (s.mg a).hardStop ∧ (t.seq a).sq = .halted) ∧
      t.owed = s.owed.map addSecond ∧ t.cte = s.cte ∧ t.claims = s.claims ∧ t.signals = s.signals) ∧
    ((s.seq a).sq = .halted ∨ (s.seq a).sq = .off → t = s)

/-- How rendezvous entries break and fire. A member that halts alone withdraws its own arrival, and an entry
that holds another arrival breaks, its other arrivals being returned for their GROUP halts (R46, R154); a
common cause breaks the entries in which a halted axis had arrived, with no GROUP halts (R47). A fire whose
members all pass starts them at one event, empties its arrivals and counts, and what the motions bring follows
(R45; log entry 25); with two or more members and one that fails, the entry breaks unfired and no member is
left that could start; the one member of an entry of its own that fails is rejected and halts with REJECT, and
the entry stays OPEN with arrived empty. Of a failed fire the failing members halt with REJECT and the passing
ones with GROUP, where no other entry holds the arrival of a member. -/
def Obligations.RendezvousBreaksAndFires : Prop :=
  ∀ (s : State),
    (∀ (a : Axis) (e : EntryNo),
      let x := s.entry e
      let others := x.arrived &&& ~~~axisBit a
      ((s.breakFor a).1.entry e =
        if x.state = .opened ∧ inSet a x.members = true ∧ x.arrived ≠ 0 then
          (if others = 0 then { x with arrived := 0 } else { x with state := .broken, arrived := 0 })
        else x) ∧
      (s.breakFor a).1.axes = s.axes ∧ (s.breakFor a).1.queue = s.queue) ∧
    (∀ a b : Axis, inSet b (s.breakFor a).2 = true ↔ b ≠ a ∧ ∃ e, (s.entry e).state = .opened ∧
      inSet a (s.entry e).members = true ∧ inSet b (s.entry e).arrived = true) ∧
    (∀ (halted : BitVec 4) (e : EntryNo), (s.breakCommon halted).entry e =
      if (s.entry e).arrived &&& halted = 0 then s.entry e
      else { s.entry e with state := .broken, arrived := 0 }) ∧
    (∀ e : EntryNo,
      let ms := members (s.entry e).members
      let t := s.grantFire e
      let p := startAll ms s
      ((∀ a ∈ ms, s.repeatAt a = none) →
        t = (p.1.modEntry e fun x => { x with
            arrived := 0, fireCount := x.fireCount + 1, lastFire := p.1.time }).atOneStep
          (p.2.map fun x => (x.1, fun u => u.takeMgEvent x.1 x.2)) ∧
        p.2.map (·.1) = ms ∧ p.1.rdv = s.rdv ∧ p.1.time = s.time ∧
        ((∀ a ∈ ms, ∃ c b, (s.seq a).candidate = some c ∧ c.seg.body = some b) →
          ∀ a ∈ ms, (p.1.seq a).sq = .run) ∧
        (t.entry e).fireCount = (s.entry e).fireCount + 1 ∧ (t.entry e).lastFire = s.time ∧
        ((∀ x ∈ p.2, x.2 = .none) → t.entry e = { s.entry e with
          arrived := 0, fireCount := (s.entry e).fireCount + 1, lastFire := s.time })) ∧
      ((∃ a ∈ ms, s.repeatAt a ≠ none) → 2 ≤ ms.length →
        t.entry e = { s.entry e with state := .broken, arrived := 0 } ∧ ∀ a ∈ ms, ¬ live t a) ∧
      (∀ a why, ms = [a] → s.repeatAt a = some why →
        t = ((s.rejectEntry a why).modEntry e fun x => { x with arrived := 0 }).haltCause a .reject .soft
          false ∧ t.entry e = { s.entry e with arrived := 0 } ∧ ¬ live t a) ∧
      ((∃ a ∈ ms, s.repeatAt a ≠ none) →
        (∀ d, d ≠ e → (s.entry d).arrived &&& (s.entry e).members = 0) → ∀ a ∈ ms, live s a →
        (t.seq a).reason = some (if s.repeatAt a = none then .group else .reject)))

/-- The place arbiter and what follows every event. One grant, in the order of R155: nothing outside DS_RUN
and DS_DRAIN or without a FREE place (R156); the owed list first; then the CTE's claim, which begins the CTL
fetch (R136); then the resolution claim at the head, and none where the FREE places are too few for it. The
arbiter serves until it grants nothing more (log entry 26 for the bound). A placed notice carries what its
source recorded, and the source owes nothing more (R34, R99, R122, R124, R151). Several axes served at one event
are served in order, and of two claims that they make the one of the lower rank stands first: by the step of the
service that made it, the watchers before the posts before the armings, and of one step by the number of the
claiming axis (R155; log entry 25). Every event ends with the arbiter, the waiting BARRIER,
the CTE's claim, the fetches, the CPL write and the ends of the drain and of a fault, in the order of log
entry 12. -/
def Obligations.ArbiterServesInItsOrder : Prop :=
  (∀ s : State,
    let on : Prop := s.dev = .run ∨ s.dev = .drain
    let used := s.queue.reserved.length + s.queue.filled.length + (if s.queue.writing = none then 0 else 1)
    (¬ on ∨ 8 ≤ used → s.serveOnce = none) ∧
    (on → used < 8 → s.owed ≠ [] → s.serveOnce = some s.placeFirstOwed) ∧
    (on → used < 8 → s.owed = [] → s.cte = .claim → s.serveOnce = some
      { s.modRing ctl fun x => { x with fetch := .inFlight } with
        cte := .fetch, queue := { s.queue with reserved := s.queue.reserved ++ [.cte] } }) ∧
    (on → used < 8 → s.owed = [] → s.cte ≠ .claim →
      (s.claims = [] → s.serveOnce = none) ∧
      (∀ c rest, s.claims = c :: rest →
        (s.need c ≤ 8 - used → s.serveOnce = some (s.grantClaim c)) ∧
        (8 - used < s.need c → s.serveOnce = none)))) ∧
  (∀ s : State,
    let next (u : State) : State := u.serveOnce.getD u
    ∃ n ≤ 64, s.serve = next^[n] s ∧ (∀ i < n, (next^[i] s).serveOnce ≠ none) ∧
      (n < 64 → s.serve.serveOnce = none)) ∧
  (∀ (s : State) (o : Owed) (rest : List Owed), s.owed = o :: rest →
    s.queue.reserved.length + s.queue.filled.length + (if s.queue.writing = none then 0 else 1) < 8 →
    let t := s.placeFirstOwed
    let placed (c : Completion) : Prop :=
      t.queue = { s.queue with filled := s.queue.filled ++ [c] } ∧ t.owed = rest
    match o with
    | .axisHalted a r second p v w =>
      placed ⟨.axisHalted, BitVec.ofNat 8 a.val, 0, 0, r.code, reasonCode second, p, v, w, true⟩ ∧
      t.caps = s.caps ∧ t.overflowMask = s.overflowMask
    | .drainFlush a count first w =>
      placed ⟨.drainFlush, BitVec.ofNat 8 a.val, 0, 0, 0, 0, BitVec.ofNat 32 count, first.setWidth 32, w,
        true⟩ ∧ t.caps = s.caps ∧ t.overflowMask = s.overflowMask
    | .signalOverflow =>
      placed ⟨.signalOverflow, 0, 0, 0, 0, 0, 0, s.overflowMask.setWidth 32, s.overflowTime, true⟩ ∧
      t.overflowMask = 0 ∧ t.caps = s.caps
    | .capture u => ∀ (c : CapConfig) (p : CapPending),
      let note : Completion := ⟨.capture, BitVec.ofNat 8 c.axis.val, BitVec.ofNat 16 p.missed,
        BitVec.ofNat 16 u.val, if p.rise then 0x60 else 0x61, 0, BitVec.ofInt 32 p.pos, p.count, p.time,
        true⟩
      (s.cap u = .armedPending c p →
        placed note ∧ t.cap u = if s.dev = .drain then .disarmed else .armed c) ∧
      (s.cap u = .spentPending c p → placed note ∧ t.cap u = .disarmed)) ∧
  ((∀ (s : State) (l : List (Axis × (State → State))),
      { s.atOneStep l with claims := [] } = { l.foldl (fun u x => x.2 u) s with claims := [] }) ∧
    (∀ (s : State) (a b : Axis) (f g : State → State) (c d : Claim), c ∉ s.claims → d ∉ s.claims → c ≠ d →
      (f s).claims = s.claims ++ [c] → (g (f s)).claims = s.claims ++ [c, d] →
      (s.atOneStep [(a, f), (b, g)]).claims = s.claims ++
        if (g (f s)).claimRank b d < (f s).claimRank a c then [d, c] else [c, d]) ∧
    ∀ (s : State) (a b : Axis) (e : EntryNo),
      let signals : Prop := ∃ x y n, (s.seq b).candidate = some x ∧ x.seg.body = some y ∧
        y.start = .waitSignal n
      s.claimRank a (.axis a) = 8 + a.val ∧ (b ≠ a → signals → s.claimRank a (.axis b) = 4 + b.val) ∧
      (b ≠ a → ¬ signals → s.claimRank a (.axis b) = b.val) ∧
      (inSet b (s.entry e).members = true → (∀ d, d < b → inSet d (s.entry e).members = false) →
        s.claimRank a (.fire e) = 8 + b.val)) ∧
  ∀ s : State, s.finish =
    (forEach allAxes State.beginFetch
      s.serve.judgeBarrier.cteClaim.serve).beginCplWrite.drainEnd.faultExit

/-- Records passed and discarded. The consumer index passing records gives them the next sequence numbers and
makes a report due: its write begins with the new word, or a further report is noted (R3, R167, R168). A
discard covers the window and the records passed: its range begins at the head of the window, the window is
empty, a fetch in flight is marked for discard, and the use counts follow (R23, R8, R75). -/
def Obligations.DiscardAccountsForItsRecords : Prop :=
  (∀ (x : Ring) (n : Nat), 0 < n →
    (x.pass n).cons = (x.cons + n) % x.size ∧ (x.pass n).seqNo = x.seqNo + BitVec.ofNat 16 n ∧
    (x.pass n).prod = x.prod ∧ (x.pass n).fetch = x.fetch ∧ (x.pass n).size = x.size ∧
    (x.pass n).base = x.base ∧
    (x.report = .idle → (x.pass n).report = .writing
      ((x.seqNo + BitVec.ofNat 16 n) ++ BitVec.ofNat 16 ((x.cons + n) % x.size)) false) ∧
    (∀ w again, x.report = .writing w again → (x.pass n).report = .writing w true)) ∧
  ∀ (s : State) (a : Axis) (n : Nat),
    let x := s.ring (axisRing a)
    let p := s.discard a n
    p.2.2 = (s.seq a).window.length + n ∧
    p.2.1 = (match (s.seq a).window with | e :: _ => e.seq | [] => x.seqNo) ∧
    (p.1.seq a).window = [] ∧
    p.1.ring (axisRing a) =
      { x.pass n with fetch := if x.fetch = .inFlight then .discard else x.fetch } ∧
    (∀ b, b ≠ a → (p.1.seq b).window.map Entry.seq = (s.seq b).window.map Entry.seq) ∧
    (activeOk s → usesOk s → usesOk p.1)
end

