-- ==== Sys2Proof/Laws/State.lean ====
section
/-! SUPPORT. The small lemmas of the state's named updates (Machine/Ops.lean): one per update and per
thing read after it, so that no later proof unfolds a record update. -/

namespace Sys2Proof.Machine

/-! ### Families -/

@[simp] theorem setAt_get_self {α : Type} {n : Nat} (v : Vector α n) (i : Fin n) (x : α) :
    (setAt v i x).get i = x := by
  simp [setAt, Vector.get_eq_getElem]

theorem setAt_get_ne {α : Type} {n : Nat} (v : Vector α n) {i j : Fin n} (x : α) (h : j ≠ i) :
    (setAt v i x).get j = v.get j := by
  have : i.val ≠ j.val := fun e => h (Fin.ext e.symm)
  simp [setAt, Vector.get_eq_getElem, this]

theorem setAt_get {α : Type} {n : Nat} (v : Vector α n) (i j : Fin n) (x : α) :
    (setAt v i x).get j = if j = i then x else v.get j := by
  by_cases h : j = i
  · subst h; simp
  · simp [setAt_get_ne _ _ h, h]

theorem setAt_setAt {α : Type} {n : Nat} (v : Vector α n) (i : Fin n) (x y : α) :
    setAt (setAt v i x) i y = setAt v i y := by
  simp [setAt]

@[simp] theorem forEach_nil {α : Type} (f : α → State → State) (s : State) : forEach [] f s = s := rfl

@[simp] theorem forEach_cons {α : Type} (x : α) (l : List α) (f : α → State → State) (s : State) :
    forEach (x :: l) f s = forEach l f (f x s) := rfl

/-! ### Axes -/

section Axes
variable (s : State) (a b : Axis)

theorem axis_modAxis (f : AxisState → AxisState) :
    (s.modAxis a f).axis b = if b = a then f (s.axis a) else s.axis b := by
  simp [State.modAxis, State.axis, setAt_get]

/-- Two changes of one axis are one. -/
theorem modAxis_modAxis (f g : AxisState → AxisState) :
    (s.modAxis a f).modAxis a g = s.modAxis a fun x => g (f x) := by
  have h : (s.modAxis a f).axis a = f (s.axis a) := by simp [axis_modAxis]
  unfold State.modAxis at h ⊢
  simp only [h, setAt_setAt]

theorem modSeq_modSeq (f g : Seq → Seq) :
    (s.modSeq a f).modSeq a g = s.modSeq a fun q => g (f q) :=
  modAxis_modAxis s a _ _

theorem modMg_modSeq (f : MG → MG) (g : Seq → Seq) :
    (s.modMg a f).modSeq a g = (s.modSeq a g).modMg a f := by
  unfold State.modMg State.modSeq
  rw [modAxis_modAxis, modAxis_modAxis]

theorem modMg_modMg (f g : MG → MG) : (s.modMg a f).modMg a g = s.modMg a fun m => g (f m) :=
  modAxis_modAxis s a _ _

@[simp] theorem mg_modAxis (f : AxisState → AxisState) :
    (s.modAxis a f).mg b = if b = a then (f (s.axis a)).mg else s.mg b := by
  simp only [State.mg, axis_modAxis]; split <;> rfl
@[simp] theorem seq_modAxis (f : AxisState → AxisState) :
    (s.modAxis a f).seq b = if b = a then (f (s.axis a)).seq else s.seq b := by
  simp only [State.seq, axis_modAxis]; split <;> rfl
@[simp] theorem cfg_modAxis (f : AxisState → AxisState) :
    (s.modAxis a f).cfg b = if b = a then (f (s.axis a)).cfg else s.cfg b := by
  simp only [State.cfg, axis_modAxis]; split <;> rfl
@[simp] theorem fbm_modAxis (f : AxisState → AxisState) :
    (s.modAxis a f).fbm b = if b = a then (f (s.axis a)).fbm else s.fbm b := by
  simp only [State.fbm, axis_modAxis]; split <;> rfl

@[simp] theorem mg_modMg (f : MG → MG) :
    (s.modMg a f).mg b = if b = a then f (s.mg a) else s.mg b := by
  simp only [State.modMg, mg_modAxis]; rfl
@[simp] theorem seq_modMg (f : MG → MG) : (s.modMg a f).seq b = s.seq b := by
  simp only [State.modMg, seq_modAxis]; split
  · subst b; rfl
  · rfl
@[simp] theorem cfg_modMg (f : MG → MG) : (s.modMg a f).cfg b = s.cfg b := by
  simp only [State.modMg, cfg_modAxis]; split
  · subst b; rfl
  · rfl
@[simp] theorem fbm_modMg (f : MG → MG) : (s.modMg a f).fbm b = s.fbm b := by
  simp only [State.modMg, fbm_modAxis]; split
  · subst b; rfl
  · rfl

@[simp] theorem seq_modSeq (f : Seq → Seq) :
    (s.modSeq a f).seq b = if b = a then f (s.seq a) else s.seq b := by
  simp only [State.modSeq, seq_modAxis]; rfl
@[simp] theorem mg_modSeq (f : Seq → Seq) : (s.modSeq a f).mg b = s.mg b := by
  simp only [State.modSeq, mg_modAxis]; split
  · subst b; rfl
  · rfl
@[simp] theorem cfg_modSeq (f : Seq → Seq) : (s.modSeq a f).cfg b = s.cfg b := by
  simp only [State.modSeq, cfg_modAxis]; split
  · subst b; rfl
  · rfl
@[simp] theorem fbm_modSeq (f : Seq → Seq) : (s.modSeq a f).fbm b = s.fbm b := by
  simp only [State.modSeq, fbm_modAxis]; split
  · subst b; rfl
  · rfl

@[simp] theorem fbm_modFbm (f : FBM → FBM) :
    (s.modFbm a f).fbm b = if b = a then f (s.fbm a) else s.fbm b := by
  simp only [State.modFbm, fbm_modAxis]; rfl
@[simp] theorem mg_modFbm (f : FBM → FBM) : (s.modFbm a f).mg b = s.mg b := by
  simp only [State.modFbm, mg_modAxis]; split
  · subst b; rfl
  · rfl
@[simp] theorem seq_modFbm (f : FBM → FBM) : (s.modFbm a f).seq b = s.seq b := by
  simp only [State.modFbm, seq_modAxis]; split
  · subst b; rfl
  · rfl
@[simp] theorem cfg_modFbm (f : FBM → FBM) : (s.modFbm a f).cfg b = s.cfg b := by
  simp only [State.modFbm, cfg_modAxis]; split
  · subst b; rfl
  · rfl

@[simp] theorem seq_setSq (q : SqState) :
    (s.setSq a q).seq b = if b = a then { s.seq a with sq := q } else s.seq b := by
  simp [State.setSq]
@[simp] theorem mg_setSq (q : SqState) : (s.setSq a q).mg b = s.mg b := by simp [State.setSq]
@[simp] theorem cfg_setSq (q : SqState) : (s.setSq a q).cfg b = s.cfg b := by simp [State.setSq]
@[simp] theorem fbm_setSq (q : SqState) : (s.setSq a q).fbm b = s.fbm b := by simp [State.setSq]

end Axes

/-! ### The other families -/

@[simp] theorem ring_modRing (s : State) (r q : RingNo) (f : Ring → Ring) :
    (s.modRing r f).ring q = if q = r then f (s.ring r) else s.ring q := by
  simp [State.modRing, State.ring, setAt_get]
@[simp] theorem bank_modBank (s : State) (b c : BankNo) (f : Bank → Bank) :
    (s.modBank b f).bank c = if c = b then f (s.bank b) else s.bank c := by
  simp [State.modBank, State.bank, setAt_get]
@[simp] theorem signal_modSignal (s : State) (n m : SignalNo) (f : Signal → Signal) :
    (s.modSignal n f).signal m = if m = n then f (s.signal n) else s.signal m := by
  simp [State.modSignal, State.signal, setAt_get]
@[simp] theorem entry_modEntry (s : State) (e d : EntryNo) (f : Rdv → Rdv) :
    (s.modEntry e f).entry d = if d = e then f (s.entry e) else s.entry d := by
  simp [State.modEntry, State.entry, setAt_get]
@[simp] theorem cap_setCap (s : State) (u v : UnitNo) (c : CapUnit) :
    (s.setCap u c).cap v = if v = u then c else s.cap v := by
  simp [State.setCap, State.cap, setAt_get]
@[simp] theorem line_modLine (s : State) (l k : Line) (f : LineState → LineState) :
    (s.modLine l f).line k = if k = l then f (s.line l) else s.line k := by
  simp [State.modLine, State.line, setAt_get]

/-! ### The fields that an update leaves alone -/

section
variable (s : State) (a : Axis) (f : AxisState → AxisState)
@[simp] theorem pending_modAxis : (s.modAxis a f).pending = s.pending := rfl
@[simp] theorem time_modAxis : (s.modAxis a f).time = s.time := rfl
@[simp] theorem resetHeld_modAxis : (s.modAxis a f).resetHeld = s.resetHeld := rfl
@[simp] theorem dev_modAxis : (s.modAxis a f).dev = s.dev := rfl
@[simp] theorem enable_modAxis : (s.modAxis a f).enable = s.enable := rfl
@[simp] theorem faultCode_modAxis : (s.modAxis a f).faultCode = s.faultCode := rfl
@[simp] theorem faultSource_modAxis : (s.modAxis a f).faultSource = s.faultSource := rfl
@[simp] theorem setupLo_modAxis : (s.modAxis a f).setupLo = s.setupLo := rfl
@[simp] theorem setupHi_modAxis : (s.modAxis a f).setupHi = s.setupHi := rfl
@[simp] theorem postReg_modAxis : (s.modAxis a f).postReg = s.postReg := rfl
@[simp] theorem rings_modAxis : (s.modAxis a f).rings = s.rings := rfl
@[simp] theorem reportAddr_modAxis : (s.modAxis a f).reportAddr = s.reportAddr := rfl
@[simp] theorem cpl_modAxis : (s.modAxis a f).cpl = s.cpl := rfl
@[simp] theorem queue_modAxis : (s.modAxis a f).queue = s.queue := rfl
@[simp] theorem owed_modAxis : (s.modAxis a f).owed = s.owed := rfl
@[simp] theorem claims_modAxis : (s.modAxis a f).claims = s.claims := rfl
@[simp] theorem moderator_modAxis : (s.modAxis a f).moderator = s.moderator := rfl
@[simp] theorem cte_modAxis : (s.modAxis a f).cte = s.cte := rfl
@[simp] theorem banks_modAxis : (s.modAxis a f).banks = s.banks := rfl
@[simp] theorem signals_modAxis : (s.modAxis a f).signals = s.signals := rfl
@[simp] theorem overflowMask_modAxis : (s.modAxis a f).overflowMask = s.overflowMask := rfl
@[simp] theorem overflowTime_modAxis : (s.modAxis a f).overflowTime = s.overflowTime := rfl
@[simp] theorem rdv_modAxis : (s.modAxis a f).rdv = s.rdv := rfl
@[simp] theorem caps_modAxis : (s.modAxis a f).caps = s.caps := rfl
@[simp] theorem lines_modAxis : (s.modAxis a f).lines = s.lines := rfl
@[simp] theorem outs_modAxis : (s.modAxis a f).outs = s.outs := rfl
@[simp] theorem ring_modAxis (i : RingNo) : (s.modAxis a f).ring i = s.ring i := rfl
@[simp] theorem bank_modAxis (i : BankNo) : (s.modAxis a f).bank i = s.bank i := rfl
@[simp] theorem signal_modAxis (i : SignalNo) : (s.modAxis a f).signal i = s.signal i := rfl
@[simp] theorem entry_modAxis (i : EntryNo) : (s.modAxis a f).entry i = s.entry i := rfl
@[simp] theorem cap_modAxis (i : UnitNo) : (s.modAxis a f).cap i = s.cap i := rfl
@[simp] theorem line_modAxis (i : Line) : (s.modAxis a f).line i = s.line i := rfl
end

section
variable (s : State) (a : Axis) (f : MG → MG)
@[simp] theorem pending_modMg : (s.modMg a f).pending = s.pending := rfl
@[simp] theorem time_modMg : (s.modMg a f).time = s.time := rfl
@[simp] theorem resetHeld_modMg : (s.modMg a f).resetHeld = s.resetHeld := rfl
@[simp] theorem dev_modMg : (s.modMg a f).dev = s.dev := rfl
@[simp] theorem enable_modMg : (s.modMg a f).enable = s.enable := rfl
@[simp] theorem faultCode_modMg : (s.modMg a f).faultCode = s.faultCode := rfl
@[simp] theorem faultSource_modMg : (s.modMg a f).faultSource = s.faultSource := rfl
@[simp] theorem setupLo_modMg : (s.modMg a f).setupLo = s.setupLo := rfl
@[simp] theorem setupHi_modMg : (s.modMg a f).setupHi = s.setupHi := rfl
@[simp] theorem postReg_modMg : (s.modMg a f).postReg = s.postReg := rfl
@[simp] theorem rings_modMg : (s.modMg a f).rings = s.rings := rfl
@[simp] theorem reportAddr_modMg : (s.modMg a f).reportAddr = s.reportAddr := rfl
@[simp] theorem cpl_modMg : (s.modMg a f).cpl = s.cpl := rfl
@[simp] theorem queue_modMg : (s.modMg a f).queue = s.queue := rfl
@[simp] theorem owed_modMg : (s.modMg a f).owed = s.owed := rfl
@[simp] theorem claims_modMg : (s.modMg a f).claims = s.claims := rfl
@[simp] theorem moderator_modMg : (s.modMg a f).moderator = s.moderator := rfl
@[simp] theorem cte_modMg : (s.modMg a f).cte = s.cte := rfl
@[simp] theorem banks_modMg : (s.modMg a f).banks = s.banks := rfl
@[simp] theorem signals_modMg : (s.modMg a f).signals = s.signals := rfl
@[simp] theorem overflowMask_modMg : (s.modMg a f).overflowMask = s.overflowMask := rfl
@[simp] theorem overflowTime_modMg : (s.modMg a f).overflowTime = s.overflowTime := rfl
@[simp] theorem rdv_modMg : (s.modMg a f).rdv = s.rdv := rfl
@[simp] theorem caps_modMg : (s.modMg a f).caps = s.caps := rfl
@[simp] theorem lines_modMg : (s.modMg a f).lines = s.lines := rfl
@[simp] theorem outs_modMg : (s.modMg a f).outs = s.outs := rfl
@[simp] theorem ring_modMg (i : RingNo) : (s.modMg a f).ring i = s.ring i := rfl
@[simp] theorem bank_modMg (i : BankNo) : (s.modMg a f).bank i = s.bank i := rfl
@[simp] theorem signal_modMg (i : SignalNo) : (s.modMg a f).signal i = s.signal i := rfl
@[simp] theorem entry_modMg (i : EntryNo) : (s.modMg a f).entry i = s.entry i := rfl
@[simp] theorem cap_modMg (i : UnitNo) : (s.modMg a f).cap i = s.cap i := rfl
@[simp] theorem line_modMg (i : Line) : (s.modMg a f).line i = s.line i := rfl
end

section
variable (s : State) (a : Axis) (f : Seq → Seq)
@[simp] theorem pending_modSeq : (s.modSeq a f).pending = s.pending := rfl
@[simp] theorem time_modSeq : (s.modSeq a f).time = s.time := rfl
@[simp] theorem resetHeld_modSeq : (s.modSeq a f).resetHeld = s.resetHeld := rfl
@[simp] theorem dev_modSeq : (s.modSeq a f).dev = s.dev := rfl
@[simp] theorem enable_modSeq : (s.modSeq a f).enable = s.enable := rfl
@[simp] theorem faultCode_modSeq : (s.modSeq a f).faultCode = s.faultCode := rfl
@[simp] theorem faultSource_modSeq : (s.modSeq a f).faultSource = s.faultSource := rfl
@[simp] theorem setupLo_modSeq : (s.modSeq a f).setupLo = s.setupLo := rfl
@[simp] theorem setupHi_modSeq : (s.modSeq a f).setupHi = s.setupHi := rfl
@[simp] theorem postReg_modSeq : (s.modSeq a f).postReg = s.postReg := rfl
@[simp] theorem rings_modSeq : (s.modSeq a f).rings = s.rings := rfl
@[simp] theorem reportAddr_modSeq : (s.modSeq a f).reportAddr = s.reportAddr := rfl
@[simp] theorem cpl_modSeq : (s.modSeq a f).cpl = s.cpl := rfl
@[simp] theorem queue_modSeq : (s.modSeq a f).queue = s.queue := rfl
@[simp] theorem owed_modSeq : (s.modSeq a f).owed = s.owed := rfl
@[simp] theorem claims_modSeq : (s.modSeq a f).claims = s.claims := rfl
@[simp] theorem moderator_modSeq : (s.modSeq a f).moderator = s.moderator := rfl
@[simp] theorem cte_modSeq : (s.modSeq a f).cte = s.cte := rfl
@[simp] theorem banks_modSeq : (s.modSeq a f).banks = s.banks := rfl
@[simp] theorem signals_modSeq : (s.modSeq a f).signals = s.signals := rfl
@[simp] theorem overflowMask_modSeq : (s.modSeq a f).overflowMask = s.overflowMask := rfl
@[simp] theorem overflowTime_modSeq : (s.modSeq a f).overflowTime = s.overflowTime := rfl
@[simp] theorem rdv_modSeq : (s.modSeq a f).rdv = s.rdv := rfl
@[simp] theorem caps_modSeq : (s.modSeq a f).caps = s.caps := rfl
@[simp] theorem lines_modSeq : (s.modSeq a f).lines = s.lines := rfl
@[simp] theorem outs_modSeq : (s.modSeq a f).outs = s.outs := rfl
@[simp] theorem ring_modSeq (i : RingNo) : (s.modSeq a f).ring i = s.ring i := rfl
@[simp] theorem bank_modSeq (i : BankNo) : (s.modSeq a f).bank i = s.bank i := rfl
@[simp] theorem signal_modSeq (i : SignalNo) : (s.modSeq a f).signal i = s.signal i := rfl
@[simp] theorem entry_modSeq (i : EntryNo) : (s.modSeq a f).entry i = s.entry i := rfl
@[simp] theorem cap_modSeq (i : UnitNo) : (s.modSeq a f).cap i = s.cap i := rfl
@[simp] theorem line_modSeq (i : Line) : (s.modSeq a f).line i = s.line i := rfl
end

section
variable (s : State) (a : Axis) (f : FBM → FBM)
@[simp] theorem pending_modFbm : (s.modFbm a f).pending = s.pending := rfl
@[simp] theorem time_modFbm : (s.modFbm a f).time = s.time := rfl
@[simp] theorem resetHeld_modFbm : (s.modFbm a f).resetHeld = s.resetHeld := rfl
@[simp] theorem dev_modFbm : (s.modFbm a f).dev = s.dev := rfl
@[simp] theorem enable_modFbm : (s.modFbm a f).enable = s.enable := rfl
@[simp] theorem faultCode_modFbm : (s.modFbm a f).faultCode = s.faultCode := rfl
@[simp] theorem faultSource_modFbm : (s.modFbm a f).faultSource = s.faultSource := rfl
@[simp] theorem setupLo_modFbm : (s.modFbm a f).setupLo = s.setupLo := rfl
@[simp] theorem setupHi_modFbm : (s.modFbm a f).setupHi = s.setupHi := rfl
@[simp] theorem postReg_modFbm : (s.modFbm a f).postReg = s.postReg := rfl
@[simp] theorem rings_modFbm : (s.modFbm a f).rings = s.rings := rfl
@[simp] theorem reportAddr_modFbm : (s.modFbm a f).reportAddr = s.reportAddr := rfl
@[simp] theorem cpl_modFbm : (s.modFbm a f).cpl = s.cpl := rfl
@[simp] theorem queue_modFbm : (s.modFbm a f).queue = s.queue := rfl
@[simp] theorem owed_modFbm : (s.modFbm a f).owed = s.owed := rfl
@[simp] theorem claims_modFbm : (s.modFbm a f).claims = s.claims := rfl
@[simp] theorem moderator_modFbm : (s.modFbm a f).moderator = s.moderator := rfl
@[simp] theorem cte_modFbm : (s.modFbm a f).cte = s.cte := rfl
@[simp] theorem banks_modFbm : (s.modFbm a f).banks = s.banks := rfl
@[simp] theorem signals_modFbm : (s.modFbm a f).signals = s.signals := rfl
@[simp] theorem overflowMask_modFbm : (s.modFbm a f).overflowMask = s.overflowMask := rfl
@[simp] theorem overflowTime_modFbm : (s.modFbm a f).overflowTime = s.overflowTime := rfl
@[simp] theorem rdv_modFbm : (s.modFbm a f).rdv = s.rdv := rfl
@[simp] theorem caps_modFbm : (s.modFbm a f).caps = s.caps := rfl
@[simp] theorem lines_modFbm : (s.modFbm a f).lines = s.lines := rfl
@[simp] theorem outs_modFbm : (s.modFbm a f).outs = s.outs := rfl
@[simp] theorem ring_modFbm (i : RingNo) : (s.modFbm a f).ring i = s.ring i := rfl
@[simp] theorem bank_modFbm (i : BankNo) : (s.modFbm a f).bank i = s.bank i := rfl
@[simp] theorem signal_modFbm (i : SignalNo) : (s.modFbm a f).signal i = s.signal i := rfl
@[simp] theorem entry_modFbm (i : EntryNo) : (s.modFbm a f).entry i = s.entry i := rfl
@[simp] theorem cap_modFbm (i : UnitNo) : (s.modFbm a f).cap i = s.cap i := rfl
@[simp] theorem line_modFbm (i : Line) : (s.modFbm a f).line i = s.line i := rfl
end

section
variable (s : State) (a : Axis) (q : SqState)
@[simp] theorem pending_setSq : (s.setSq a q).pending = s.pending := rfl
@[simp] theorem time_setSq : (s.setSq a q).time = s.time := rfl
@[simp] theorem resetHeld_setSq : (s.setSq a q).resetHeld = s.resetHeld := rfl
@[simp] theorem dev_setSq : (s.setSq a q).dev = s.dev := rfl
@[simp] theorem enable_setSq : (s.setSq a q).enable = s.enable := rfl
@[simp] theorem faultCode_setSq : (s.setSq a q).faultCode = s.faultCode := rfl
@[simp] theorem faultSource_setSq : (s.setSq a q).faultSource = s.faultSource := rfl
@[simp] theorem setupLo_setSq : (s.setSq a q).setupLo = s.setupLo := rfl
@[simp] theorem setupHi_setSq : (s.setSq a q).setupHi = s.setupHi := rfl
@[simp] theorem postReg_setSq : (s.setSq a q).postReg = s.postReg := rfl
@[simp] theorem rings_setSq : (s.setSq a q).rings = s.rings := rfl
@[simp] theorem reportAddr_setSq : (s.setSq a q).reportAddr = s.reportAddr := rfl
@[simp] theorem cpl_setSq : (s.setSq a q).cpl = s.cpl := rfl
@[simp] theorem queue_setSq : (s.setSq a q).queue = s.queue := rfl
@[simp] theorem owed_setSq : (s.setSq a q).owed = s.owed := rfl
@[simp] theorem claims_setSq : (s.setSq a q).claims = s.claims := rfl
@[simp] theorem moderator_setSq : (s.setSq a q).moderator = s.moderator := rfl
@[simp] theorem cte_setSq : (s.setSq a q).cte = s.cte := rfl
@[simp] theorem banks_setSq : (s.setSq a q).banks = s.banks := rfl
@[simp] theorem signals_setSq : (s.setSq a q).signals = s.signals := rfl
@[simp] theorem overflowMask_setSq : (s.setSq a q).overflowMask = s.overflowMask := rfl
@[simp] theorem overflowTime_setSq : (s.setSq a q).overflowTime = s.overflowTime := rfl
@[simp] theorem rdv_setSq : (s.setSq a q).rdv = s.rdv := rfl
@[simp] theorem caps_setSq : (s.setSq a q).caps = s.caps := rfl
@[simp] theorem lines_setSq : (s.setSq a q).lines = s.lines := rfl
@[simp] theorem outs_setSq : (s.setSq a q).outs = s.outs := rfl
@[simp] theorem ring_setSq (i : RingNo) : (s.setSq a q).ring i = s.ring i := rfl
@[simp] theorem bank_setSq (i : BankNo) : (s.setSq a q).bank i = s.bank i := rfl
@[simp] theorem signal_setSq (i : SignalNo) : (s.setSq a q).signal i = s.signal i := rfl
@[simp] theorem entry_setSq (i : EntryNo) : (s.setSq a q).entry i = s.entry i := rfl
@[simp] theorem cap_setSq (i : UnitNo) : (s.setSq a q).cap i = s.cap i := rfl
@[simp] theorem line_setSq (i : Line) : (s.setSq a q).line i = s.line i := rfl
end

section
variable (s : State) (r : RingNo) (f : Ring → Ring)
@[simp] theorem pending_modRing : (s.modRing r f).pending = s.pending := rfl
@[simp] theorem time_modRing : (s.modRing r f).time = s.time := rfl
@[simp] theorem resetHeld_modRing : (s.modRing r f).resetHeld = s.resetHeld := rfl
@[simp] theorem dev_modRing : (s.modRing r f).dev = s.dev := rfl
@[simp] theorem enable_modRing : (s.modRing r f).enable = s.enable := rfl
@[simp] theorem faultCode_modRing : (s.modRing r f).faultCode = s.faultCode := rfl
@[simp] theorem faultSource_modRing : (s.modRing r f).faultSource = s.faultSource := rfl
@[simp] theorem setupLo_modRing : (s.modRing r f).setupLo = s.setupLo := rfl
@[simp] theorem setupHi_modRing : (s.modRing r f).setupHi = s.setupHi := rfl
@[simp] theorem postReg_modRing : (s.modRing r f).postReg = s.postReg := rfl
@[simp] theorem reportAddr_modRing : (s.modRing r f).reportAddr = s.reportAddr := rfl
@[simp] theorem cpl_modRing : (s.modRing r f).cpl = s.cpl := rfl
@[simp] theorem queue_modRing : (s.modRing r f).queue = s.queue := rfl
@[simp] theorem owed_modRing : (s.modRing r f).owed = s.owed := rfl
@[simp] theorem claims_modRing : (s.modRing r f).claims = s.claims := rfl
@[simp] theorem moderator_modRing : (s.modRing r f).moderator = s.moderator := rfl
@[simp] theorem cte_modRing : (s.modRing r f).cte = s.cte := rfl
@[simp] theorem axes_modRing : (s.modRing r f).axes = s.axes := rfl
@[simp] theorem banks_modRing : (s.modRing r f).banks = s.banks := rfl
@[simp] theorem signals_modRing : (s.modRing r f).signals = s.signals := rfl
@[simp] theorem overflowMask_modRing : (s.modRing r f).overflowMask = s.overflowMask := rfl
@[simp] theorem overflowTime_modRing : (s.modRing r f).overflowTime = s.overflowTime := rfl
@[simp] theorem rdv_modRing : (s.modRing r f).rdv = s.rdv := rfl
@[simp] theorem caps_modRing : (s.modRing r f).caps = s.caps := rfl
@[simp] theorem lines_modRing : (s.modRing r f).lines = s.lines := rfl
@[simp] theorem outs_modRing : (s.modRing r f).outs = s.outs := rfl
@[simp] theorem axis_modRing (i : Axis) : (s.modRing r f).axis i = s.axis i := rfl
@[simp] theorem mg_modRing (i : Axis) : (s.modRing r f).mg i = s.mg i := rfl
@[simp] theorem seq_modRing (i : Axis) : (s.modRing r f).seq i = s.seq i := rfl
@[simp] theorem cfg_modRing (i : Axis) : (s.modRing r f).cfg i = s.cfg i := rfl
@[simp] theorem fbm_modRing (i : Axis) : (s.modRing r f).fbm i = s.fbm i := rfl
@[simp] theorem bank_modRing (i : BankNo) : (s.modRing r f).bank i = s.bank i := rfl
@[simp] theorem signal_modRing (i : SignalNo) : (s.modRing r f).signal i = s.signal i := rfl
@[simp] theorem entry_modRing (i : EntryNo) : (s.modRing r f).entry i = s.entry i := rfl
@[simp] theorem cap_modRing (i : UnitNo) : (s.modRing r f).cap i = s.cap i := rfl
@[simp] theorem line_modRing (i : Line) : (s.modRing r f).line i = s.line i := rfl
end

section
variable (s : State) (b : BankNo) (f : Bank → Bank)
@[simp] theorem pending_modBank : (s.modBank b f).pending = s.pending := rfl
@[simp] theorem time_modBank : (s.modBank b f).time = s.time := rfl
@[simp] theorem resetHeld_modBank : (s.modBank b f).resetHeld = s.resetHeld := rfl
@[simp] theorem dev_modBank : (s.modBank b f).dev = s.dev := rfl
@[simp] theorem enable_modBank : (s.modBank b f).enable = s.enable := rfl
@[simp] theorem faultCode_modBank : (s.modBank b f).faultCode = s.faultCode := rfl
@[simp] theorem faultSource_modBank : (s.modBank b f).faultSource = s.faultSource := rfl
@[simp] theorem setupLo_modBank : (s.modBank b f).setupLo = s.setupLo := rfl
@[simp] theorem setupHi_modBank : (s.modBank b f).setupHi = s.setupHi := rfl
@[simp] theorem postReg_modBank : (s.modBank b f).postReg = s.postReg := rfl
@[simp] theorem rings_modBank : (s.modBank b f).rings = s.rings := rfl
@[simp] theorem reportAddr_modBank : (s.modBank b f).reportAddr = s.reportAddr := rfl
@[simp] theorem cpl_modBank : (s.modBank b f).cpl = s.cpl := rfl
@[simp] theorem queue_modBank : (s.modBank b f).queue = s.queue := rfl
@[simp] theorem owed_modBank : (s.modBank b f).owed = s.owed := rfl
@[simp] theorem claims_modBank : (s.modBank b f).claims = s.claims := rfl
@[simp] theorem moderator_modBank : (s.modBank b f).moderator = s.moderator := rfl
@[simp] theorem cte_modBank : (s.modBank b f).cte = s.cte := rfl
@[simp] theorem axes_modBank : (s.modBank b f).axes = s.axes := rfl
@[simp] theorem signals_modBank : (s.modBank b f).signals = s.signals := rfl
@[simp] theorem overflowMask_modBank : (s.modBank b f).overflowMask = s.overflowMask := rfl
@[simp] theorem overflowTime_modBank : (s.modBank b f).overflowTime = s.overflowTime := rfl
@[simp] theorem rdv_modBank : (s.modBank b f).rdv = s.rdv := rfl
@[simp] theorem caps_modBank : (s.modBank b f).caps = s.caps := rfl
@[simp] theorem lines_modBank : (s.modBank b f).lines = s.lines := rfl
@[simp] theorem outs_modBank : (s.modBank b f).outs = s.outs := rfl
@[simp] theorem axis_modBank (i : Axis) : (s.modBank b f).axis i = s.axis i := rfl
@[simp] theorem mg_modBank (i : Axis) : (s.modBank b f).mg i = s.mg i := rfl
@[simp] theorem seq_modBank (i : Axis) : (s.modBank b f).seq i = s.seq i := rfl
@[simp] theorem cfg_modBank (i : Axis) : (s.modBank b f).cfg i = s.cfg i := rfl
@[simp] theorem fbm_modBank (i : Axis) : (s.modBank b f).fbm i = s.fbm i := rfl
@[simp] theorem ring_modBank (i : RingNo) : (s.modBank b f).ring i = s.ring i := rfl
@[simp] theorem signal_modBank (i : SignalNo) : (s.modBank b f).signal i = s.signal i := rfl
@[simp] theorem entry_modBank (i : EntryNo) : (s.modBank b f).entry i = s.entry i := rfl
@[simp] theorem cap_modBank (i : UnitNo) : (s.modBank b f).cap i = s.cap i := rfl
@[simp] theorem line_modBank (i : Line) : (s.modBank b f).line i = s.line i := rfl
end

section
variable (s : State) (n : SignalNo) (f : Signal → Signal)
@[simp] theorem pending_modSignal : (s.modSignal n f).pending = s.pending := rfl
@[simp] theorem time_modSignal : (s.modSignal n f).time = s.time := rfl
@[simp] theorem resetHeld_modSignal : (s.modSignal n f).resetHeld = s.resetHeld := rfl
@[simp] theorem dev_modSignal : (s.modSignal n f).dev = s.dev := rfl
@[simp] theorem enable_modSignal : (s.modSignal n f).enable = s.enable := rfl
@[simp] theorem faultCode_modSignal : (s.modSignal n f).faultCode = s.faultCode := rfl
@[simp] theorem faultSource_modSignal : (s.modSignal n f).faultSource = s.faultSource := rfl
@[simp] theorem setupLo_modSignal : (s.modSignal n f).setupLo = s.setupLo := rfl
@[simp] theorem setupHi_modSignal : (s.modSignal n f).setupHi = s.setupHi := rfl
@[simp] theorem postReg_modSignal : (s.modSignal n f).postReg = s.postReg := rfl
@[simp] theorem rings_modSignal : (s.modSignal n f).rings = s.rings := rfl
@[simp] theorem reportAddr_modSignal : (s.modSignal n f).reportAddr = s.reportAddr := rfl
@[simp] theorem cpl_modSignal : (s.modSignal n f).cpl = s.cpl := rfl
@[simp] theorem queue_modSignal : (s.modSignal n f).queue = s.queue := rfl
@[simp] theorem owed_modSignal : (s.modSignal n f).owed = s.owed := rfl
@[simp] theorem claims_modSignal : (s.modSignal n f).claims = s.claims := rfl
@[simp] theorem moderator_modSignal : (s.modSignal n f).moderator = s.moderator := rfl
@[simp] theorem cte_modSignal : (s.modSignal n f).cte = s.cte := rfl
@[simp] theorem axes_modSignal : (s.modSignal n f).axes = s.axes := rfl
@[simp] theorem banks_modSignal : (s.modSignal n f).banks = s.banks := rfl
@[simp] theorem overflowMask_modSignal : (s.modSignal n f).overflowMask = s.overflowMask := rfl
@[simp] theorem overflowTime_modSignal : (s.modSignal n f).overflowTime = s.overflowTime := rfl
@[simp] theorem rdv_modSignal : (s.modSignal n f).rdv = s.rdv := rfl
@[simp] theorem caps_modSignal : (s.modSignal n f).caps = s.caps := rfl
@[simp] theorem lines_modSignal : (s.modSignal n f).lines = s.lines := rfl
@[simp] theorem outs_modSignal : (s.modSignal n f).outs = s.outs := rfl
@[simp] theorem axis_modSignal (i : Axis) : (s.modSignal n f).axis i = s.axis i := rfl
@[simp] theorem mg_modSignal (i : Axis) : (s.modSignal n f).mg i = s.mg i := rfl
@[simp] theorem seq_modSignal (i : Axis) : (s.modSignal n f).seq i = s.seq i := rfl
@[simp] theorem cfg_modSignal (i : Axis) : (s.modSignal n f).cfg i = s.cfg i := rfl
@[simp] theorem fbm_modSignal (i : Axis) : (s.modSignal n f).fbm i = s.fbm i := rfl
@[simp] theorem ring_modSignal (i : RingNo) : (s.modSignal n f).ring i = s.ring i := rfl
@[simp] theorem bank_modSignal (i : BankNo) : (s.modSignal n f).bank i = s.bank i := rfl
@[simp] theorem entry_modSignal (i : EntryNo) : (s.modSignal n f).entry i = s.entry i := rfl
@[simp] theorem cap_modSignal (i : UnitNo) : (s.modSignal n f).cap i = s.cap i := rfl
@[simp] theorem line_modSignal (i : Line) : (s.modSignal n f).line i = s.line i := rfl
end

section
variable (s : State) (e : EntryNo) (f : Rdv → Rdv)
@[simp] theorem pending_modEntry : (s.modEntry e f).pending = s.pending := rfl
@[simp] theorem time_modEntry : (s.modEntry e f).time = s.time := rfl
@[simp] theorem resetHeld_modEntry : (s.modEntry e f).resetHeld = s.resetHeld := rfl
@[simp] theorem dev_modEntry : (s.modEntry e f).dev = s.dev := rfl
@[simp] theorem enable_modEntry : (s.modEntry e f).enable = s.enable := rfl
@[simp] theorem faultCode_modEntry : (s.modEntry e f).faultCode = s.faultCode := rfl
@[simp] theorem faultSource_modEntry : (s.modEntry e f).faultSource = s.faultSource := rfl
@[simp] theorem setupLo_modEntry : (s.modEntry e f).setupLo = s.setupLo := rfl
@[simp] theorem setupHi_modEntry : (s.modEntry e f).setupHi = s.setupHi := rfl
@[simp] theorem postReg_modEntry : (s.modEntry e f).postReg = s.postReg := rfl
@[simp] theorem rings_modEntry : (s.modEntry e f).rings = s.rings := rfl
@[simp] theorem reportAddr_modEntry : (s.modEntry e f).reportAddr = s.reportAddr := rfl
@[simp] theorem cpl_modEntry : (s.modEntry e f).cpl = s.cpl := rfl
@[simp] theorem queue_modEntry : (s.modEntry e f).queue = s.queue := rfl
@[simp] theorem owed_modEntry : (s.modEntry e f).owed = s.owed := rfl
@[simp] theorem claims_modEntry : (s.modEntry e f).claims = s.claims := rfl
@[simp] theorem moderator_modEntry : (s.modEntry e f).moderator = s.moderator := rfl
@[simp] theorem cte_modEntry : (s.modEntry e f).cte = s.cte := rfl
@[simp] theorem axes_modEntry : (s.modEntry e f).axes = s.axes := rfl
@[simp] theorem banks_modEntry : (s.modEntry e f).banks = s.banks := rfl
@[simp] theorem signals_modEntry : (s.modEntry e f).signals = s.signals := rfl
@[simp] theorem overflowMask_modEntry : (s.modEntry e f).overflowMask = s.overflowMask := rfl
@[simp] theorem overflowTime_modEntry : (s.modEntry e f).overflowTime = s.overflowTime := rfl
@[simp] theorem caps_modEntry : (s.modEntry e f).caps = s.caps := rfl
@[simp] theorem lines_modEntry : (s.modEntry e f).lines = s.lines := rfl
@[simp] theorem outs_modEntry : (s.modEntry e f).outs = s.outs := rfl
@[simp] theorem axis_modEntry (i : Axis) : (s.modEntry e f).axis i = s.axis i := rfl
@[simp] theorem mg_modEntry (i : Axis) : (s.modEntry e f).mg i = s.mg i := rfl
@[simp] theorem seq_modEntry (i : Axis) : (s.modEntry e f).seq i = s.seq i := rfl
@[simp] theorem cfg_modEntry (i : Axis) : (s.modEntry e f).cfg i = s.cfg i := rfl
@[simp] theorem fbm_modEntry (i : Axis) : (s.modEntry e f).fbm i = s.fbm i := rfl
@[simp] theorem ring_modEntry (i : RingNo) : (s.modEntry e f).ring i = s.ring i := rfl
@[simp] theorem bank_modEntry (i : BankNo) : (s.modEntry e f).bank i = s.bank i := rfl
@[simp] theorem signal_modEntry (i : SignalNo) : (s.modEntry e f).signal i = s.signal i := rfl
@[simp] theorem cap_modEntry (i : UnitNo) : (s.modEntry e f).cap i = s.cap i := rfl
@[simp] theorem line_modEntry (i : Line) : (s.modEntry e f).line i = s.line i := rfl
end

section
variable (s : State) (u : UnitNo) (c : CapUnit)
@[simp] theorem pending_setCap : (s.setCap u c).pending = s.pending := rfl
@[simp] theorem time_setCap : (s.setCap u c).time = s.time := rfl
@[simp] theorem resetHeld_setCap : (s.setCap u c).resetHeld = s.resetHeld := rfl
@[simp] theorem dev_setCap : (s.setCap u c).dev = s.dev := rfl
@[simp] theorem enable_setCap : (s.setCap u c).enable = s.enable := rfl
@[simp] theorem faultCode_setCap : (s.setCap u c).faultCode = s.faultCode := rfl
@[simp] theorem faultSource_setCap : (s.setCap u c).faultSource = s.faultSource := rfl
@[simp] theorem setupLo_setCap : (s.setCap u c).setupLo = s.setupLo := rfl
@[simp] theorem setupHi_setCap : (s.setCap u c).setupHi = s.setupHi := rfl
@[simp] theorem postReg_setCap : (s.setCap u c).postReg = s.postReg := rfl
@[simp] theorem rings_setCap : (s.setCap u c).rings = s.rings := rfl
@[simp] theorem reportAddr_setCap : (s.setCap u c).reportAddr = s.reportAddr := rfl
@[simp] theorem cpl_setCap : (s.setCap u c).cpl = s.cpl := rfl
@[simp] theorem queue_setCap : (s.setCap u c).queue = s.queue := rfl
@[simp] theorem owed_setCap : (s.setCap u c).owed = s.owed := rfl
@[simp] theorem claims_setCap : (s.setCap u c).claims = s.claims := rfl
@[simp] theorem moderator_setCap : (s.setCap u c).moderator = s.moderator := rfl
@[simp] theorem cte_setCap : (s.setCap u c).cte = s.cte := rfl
@[simp] theorem axes_setCap : (s.setCap u c).axes = s.axes := rfl
@[simp] theorem banks_setCap : (s.setCap u c).banks = s.banks := rfl
@[simp] theorem signals_setCap : (s.setCap u c).signals = s.signals := rfl
@[simp] theorem overflowMask_setCap : (s.setCap u c).overflowMask = s.overflowMask := rfl
@[simp] theorem overflowTime_setCap : (s.setCap u c).overflowTime = s.overflowTime := rfl
@[simp] theorem rdv_setCap : (s.setCap u c).rdv = s.rdv := rfl
@[simp] theorem lines_setCap : (s.setCap u c).lines = s.lines := rfl
@[simp] theorem outs_setCap : (s.setCap u c).outs = s.outs := rfl
@[simp] theorem axis_setCap (i : Axis) : (s.setCap u c).axis i = s.axis i := rfl
@[simp] theorem mg_setCap (i : Axis) : (s.setCap u c).mg i = s.mg i := rfl
@[simp] theorem seq_setCap (i : Axis) : (s.setCap u c).seq i = s.seq i := rfl
@[simp] theorem cfg_setCap (i : Axis) : (s.setCap u c).cfg i = s.cfg i := rfl
@[simp] theorem fbm_setCap (i : Axis) : (s.setCap u c).fbm i = s.fbm i := rfl
@[simp] theorem ring_setCap (i : RingNo) : (s.setCap u c).ring i = s.ring i := rfl
@[simp] theorem bank_setCap (i : BankNo) : (s.setCap u c).bank i = s.bank i := rfl
@[simp] theorem signal_setCap (i : SignalNo) : (s.setCap u c).signal i = s.signal i := rfl
@[simp] theorem entry_setCap (i : EntryNo) : (s.setCap u c).entry i = s.entry i := rfl
@[simp] theorem line_setCap (i : Line) : (s.setCap u c).line i = s.line i := rfl
end

section
variable (s : State) (l : Line) (f : LineState → LineState)
@[simp] theorem pending_modLine : (s.modLine l f).pending = s.pending := rfl
@[simp] theorem time_modLine : (s.modLine l f).time = s.time := rfl
@[simp] theorem resetHeld_modLine : (s.modLine l f).resetHeld = s.resetHeld := rfl
@[simp] theorem dev_modLine : (s.modLine l f).dev = s.dev := rfl
@[simp] theorem enable_modLine : (s.modLine l f).enable = s.enable := rfl
@[simp] theorem faultCode_modLine : (s.modLine l f).faultCode = s.faultCode := rfl
@[simp] theorem faultSource_modLine : (s.modLine l f).faultSource = s.faultSource := rfl
@[simp] theorem setupLo_modLine : (s.modLine l f).setupLo = s.setupLo := rfl
@[simp] theorem setupHi_modLine : (s.modLine l f).setupHi = s.setupHi := rfl
@[simp] theorem postReg_modLine : (s.modLine l f).postReg = s.postReg := rfl
@[simp] theorem rings_modLine : (s.modLine l f).rings = s.rings := rfl
@[simp] theorem reportAddr_modLine : (s.modLine l f).reportAddr = s.reportAddr := rfl
@[simp] theorem cpl_modLine : (s.modLine l f).cpl = s.cpl := rfl
@[simp] theorem queue_modLine : (s.modLine l f).queue = s.queue := rfl
@[simp] theorem owed_modLine : (s.modLine l f).owed = s.owed := rfl
@[simp] theorem claims_modLine : (s.modLine l f).claims = s.claims := rfl
@[simp] theorem moderator_modLine : (s.modLine l f).moderator = s.moderator := rfl
@[simp] theorem cte_modLine : (s.modLine l f).cte = s.cte := rfl
@[simp] theorem axes_modLine : (s.modLine l f).axes = s.axes := rfl
@[simp] theorem banks_modLine : (s.modLine l f).banks = s.banks := rfl
@[simp] theorem signals_modLine : (s.modLine l f).signals = s.signals := rfl
@[simp] theorem overflowMask_modLine : (s.modLine l f).overflowMask = s.overflowMask := rfl
@[simp] theorem overflowTime_modLine : (s.modLine l f).overflowTime = s.overflowTime := rfl
@[simp] theorem rdv_modLine : (s.modLine l f).rdv = s.rdv := rfl
@[simp] theorem caps_modLine : (s.modLine l f).caps = s.caps := rfl
@[simp] theorem outs_modLine : (s.modLine l f).outs = s.outs := rfl
@[simp] theorem axis_modLine (i : Axis) : (s.modLine l f).axis i = s.axis i := rfl
@[simp] theorem mg_modLine (i : Axis) : (s.modLine l f).mg i = s.mg i := rfl
@[simp] theorem seq_modLine (i : Axis) : (s.modLine l f).seq i = s.seq i := rfl
@[simp] theorem cfg_modLine (i : Axis) : (s.modLine l f).cfg i = s.cfg i := rfl
@[simp] theorem fbm_modLine (i : Axis) : (s.modLine l f).fbm i = s.fbm i := rfl
@[simp] theorem ring_modLine (i : RingNo) : (s.modLine l f).ring i = s.ring i := rfl
@[simp] theorem bank_modLine (i : BankNo) : (s.modLine l f).bank i = s.bank i := rfl
@[simp] theorem signal_modLine (i : SignalNo) : (s.modLine l f).signal i = s.signal i := rfl
@[simp] theorem entry_modLine (i : EntryNo) : (s.modLine l f).entry i = s.entry i := rfl
@[simp] theorem cap_modLine (i : UnitNo) : (s.modLine l f).cap i = s.cap i := rfl
end

/-! ### Sets of axes -/

theorem mem_members (m : BitVec 4) (a : Axis) : a ∈ members m ↔ inSet a m = true := by
  simp only [members, List.mem_filter, and_iff_right_iff_imp]
  intro _
  fin_cases a <;> decide

theorem inSet_axisBit (a b : Axis) : inSet a (axisBit b) = decide (a = b) := by
  revert a b; decide

end Sys2Proof.Machine
end

