-- ==== Sys2Proof/Laws/Keeps.lean ====
section
/-! SUPPORT. What the primitive updates keep. `Does s t` says of two states that the second keeps the
part `kept` of the first, and that it has the invariant of the part if the first has. It is reflexive
and transitive, so that an operation has it as soon as its parts have. -/

namespace Sys2Proof.Laws

open Sys2Proof.Machine Sys2Proof.Safety

/-- From `s` to `t`: what `kept` holds is unchanged, and the invariant is kept. -/
structure Does (s t : State) : Prop where
  kept : kept t = kept s
  inv : Inv s → Inv t

theorem Does.refl (s : State) : Does s s := ⟨rfl, id⟩

theorem Does.trans {s t u : State} (h : Does s t) (k : Does t u) : Does s u :=
  ⟨k.kept.trans h.kept, fun i => k.inv (h.inv i)⟩

/-- Under the invariant of the first state. -/
theorem Does.under {s t : State} (hk : Safety.kept t = Safety.kept s) (h : Inv s → Does s t) :
    Does s t :=
  ⟨hk, fun i => (h i).inv i⟩

/-- A further change that needs what the first state has under its invariant. -/
theorem Does.andThen {s t u : State} (h : Does s t) (hk : Safety.kept u = Safety.kept t)
    (k : Inv s → Does t u) : Does s u :=
  ⟨hk.trans h.kept, fun i => (k i).inv (h.inv i)⟩

theorem does_ite {s t u : State} {p : Prop} [Decidable p] (h : p → Does s t) (k : ¬p → Does s u) :
    Does s (if p then t else u) := by
  split
  · exact h ‹_›
  · exact k ‹_›

theorem does_forEach {α : Type} (l : List α) {f : α → State → State}
    (h : ∀ x s, Does s (f x s)) (s : State) : Does s (forEach l f s) := by
  induction l generalizing s with
  | nil => exact .refl s
  | cons x l ih => exact (h x s).trans (ih _)

theorem does_foldl {α : Type} (l : List α) {f : State → α → State}
    (h : ∀ s x, Does s (f s x)) (s : State) : Does s (l.foldl f s) := by
  induction l generalizing s with
  | nil => exact .refl s
  | cons x l ih => exact (h s x).trans (ih _)

/-! ### Fields outside the invariant -/

section Plain
variable (s : State)

theorem does_owed (l : List Owed) : Does s { s with owed := l } :=
  ⟨rfl, fun h => ⟨h.queue, h.signals, h.rdv, h.window, h.active, h.still, h.uses⟩⟩
theorem does_claims (l : List Claim) : Does s { s with claims := l } :=
  ⟨rfl, fun h => ⟨h.queue, h.signals, h.rdv, h.window, h.active, h.still, h.uses⟩⟩
theorem does_cte (c : Cte) : Does s { s with cte := c } :=
  ⟨rfl, fun h => ⟨h.queue, h.signals, h.rdv, h.window, h.active, h.still, h.uses⟩⟩
theorem does_moderator (m : Moderator) : Does s { s with moderator := m } :=
  ⟨rfl, fun h => ⟨h.queue, h.signals, h.rdv, h.window, h.active, h.still, h.uses⟩⟩
theorem does_outs (o : BitVec 4) : Does s { s with outs := o } :=
  ⟨rfl, fun h => ⟨h.queue, h.signals, h.rdv, h.window, h.active, h.still, h.uses⟩⟩
theorem does_dev (d : DevState) : Does s { s with dev := d } :=
  ⟨rfl, fun h => ⟨h.queue, h.signals, h.rdv, h.window, h.active, h.still, h.uses⟩⟩
theorem does_caps (c : Vector CapUnit 4) : Does s { s with caps := c } :=
  ⟨rfl, fun h => ⟨h.queue, h.signals, h.rdv, h.window, h.active, h.still, h.uses⟩⟩
theorem does_cpl (c : CplRing) : Does s { s with cpl := c } :=
  ⟨rfl, fun h => ⟨h.queue, h.signals, h.rdv, h.window, h.active, h.still, h.uses⟩⟩
theorem does_overflow (m : BitVec 16) (t : Time) :
    Does s { s with overflowMask := m, overflowTime := t } :=
  ⟨rfl, fun h => ⟨h.queue, h.signals, h.rdv, h.window, h.active, h.still, h.uses⟩⟩
theorem does_overflowMask (m : BitVec 16) : Does s { s with overflowMask := m } :=
  does_overflow s m s.overflowTime
theorem does_setCap (u : UnitNo) (c : CapUnit) : Does s (s.setCap u c) := does_caps s _
theorem does_applyOut (o : OutAction) : Does s (s.applyOut o) := does_outs s _
theorem does_addClaim (c : Claim) : Does s (s.addClaim c) := does_claims s _
theorem does_dropClaim (c : Claim) : Does s (s.dropClaim c) := does_claims s _
theorem does_setDevice : Does s s.setDevice := does_moderator s _

/-- The queue. -/
theorem does_queue (q : Queue) (h : s.queue.held ≤ placeCount → q.held ≤ placeCount) :
    Does s { s with queue := q } :=
  ⟨rfl, fun i => ⟨h i.queue, i.signals, i.rdv, i.window, i.active, i.still, i.uses⟩⟩

end Plain

/-! ### Signals, entries, rings -/

section Families
variable (s : State)

theorem does_modSignal (n : SignalNo) (f : Signal → Signal)
    (h : (s.signal n).count ≤ signalMax → (f (s.signal n)).count ≤ signalMax) :
    Does s (s.modSignal n f) := by
  refine ⟨rfl, fun i => ⟨i.queue, fun m => ?_, i.rdv, i.window, i.active, i.still, i.uses⟩⟩
  simp only [signal_modSignal]
  split
  · exact h (i.signals n)
  · exact i.signals m

theorem does_modEntry (e : EntryNo) (f : Rdv → Rdv)
    (h : entryOk (s.entry e) → entryOk (f (s.entry e))) : Does s (s.modEntry e f) := by
  refine ⟨rfl, fun i => ⟨i.queue, i.signals, fun d => ?_, i.window, i.active, i.still, i.uses⟩⟩
  simp only [entry_modEntry]
  split
  · exact h (i.rdv e)
  · exact i.rdv d

theorem axisRing_inj {a b : Axis} : axisRing a = axisRing b ↔ a = b := by
  simp [axisRing]

theorem axisRing_ne_ctl (a : Axis) : axisRing a ≠ ctl := by revert a; decide

/-- A ring whose fetch does not begin. -/
theorem does_modRing (r : RingNo) (f : Ring → Ring)
    (h : fetchCount (f (s.ring r)).fetch ≤ fetchCount (s.ring r).fetch) :
    Does s (s.modRing r f) := by
  refine ⟨rfl, fun i => ⟨i.queue, i.signals, i.rdv, fun a => ⟨?_, (i.window a).2⟩, i.active, i.still,
    i.uses⟩⟩
  have := (i.window a).1
  simp only [coming, ring_modRing, seq_modRing] at this ⊢
  by_cases e : axisRing a = r
  · subst e
    simp only [if_true]
    omega
  · simp only [e, if_false]; exact this

/-- A fetch begins where the window has room (R7). -/
theorem does_begin (a : Axis) (f : Ring → Ring) (h : (s.seq a).window.length < 4) :
    Does s (s.modRing (axisRing a) f) := by
  refine ⟨rfl, fun i => ⟨i.queue, i.signals, i.rdv, fun b => ⟨?_, (i.window b).2⟩, i.active, i.still,
    i.uses⟩⟩
  have := (i.window b).1
  simp only [coming, ring_modRing, seq_modRing, axisRing_inj] at this ⊢
  by_cases e : b = a
  · subst e
    have : fetchCount (f (s.ring (axisRing b))).fetch ≤ 1 := by
      cases (f (s.ring (axisRing b))).fetch <;> simp [fetchCount]
    simp only [if_true]
    omega
  · simp only [e, if_false]; exact this

/-- The control ring is no axis ring. -/
theorem does_modCtl (f : Ring → Ring) : Does s (s.modRing ctl f) := by
  refine ⟨rfl, fun i => ⟨i.queue, i.signals, i.rdv, fun a => ⟨?_, (i.window a).2⟩, i.active, i.still,
    i.uses⟩⟩
  have := (i.window a).1
  simpa only [coming, ring_modRing, seq_modRing, axisRing_ne_ctl, if_false] using this

end Families

/-! ### Axes -/

section Axes
variable (s : State) (a : Axis)

theorem kept_modMg (f : MG → MG) : kept (s.modMg a f) = kept s := by
  simp only [kept, State.bank, Kept.mk.injEq, pending_modMg, time_modMg, resetHeld_modMg, enable_modMg,
    faultCode_modMg, faultSource_modMg, setupLo_modMg, setupHi_modMg, postReg_modMg,
    reportAddr_modMg, lines_modMg, banks_modMg, true_and, and_true, fbm_modMg]
  funext b; simp

theorem kept_modSeq (f : Seq → Seq) : kept (s.modSeq a f) = kept s := by
  simp only [kept, State.bank, Kept.mk.injEq, pending_modSeq, time_modSeq, resetHeld_modSeq,
    enable_modSeq, faultCode_modSeq, faultSource_modSeq, setupLo_modSeq, setupHi_modSeq,
    postReg_modSeq, reportAddr_modSeq, lines_modSeq, banks_modSeq, true_and, and_true, fbm_modSeq]
  funext b; simp

/-- The FBM, its count and its decoder state kept. -/
theorem does_modFbm (f : FBM → FBM)
    (h : ∀ x, (f x).count = x.count ∧ (f x).encA = x.encA ∧ (f x).encB = x.encB) :
    Does s (s.modFbm a f) := by
  refine ⟨?_, fun i => ⟨i.queue, i.signals, i.rdv, fun b => ?_, fun b => ?_, fun b => ?_, fun b => ?_⟩⟩
  · simp only [kept, State.bank, Kept.mk.injEq, pending_modFbm, time_modFbm, resetHeld_modFbm,
      enable_modFbm, faultCode_modFbm, faultSource_modFbm, setupLo_modFbm, setupHi_modFbm,
      postReg_modFbm, reportAddr_modFbm, lines_modFbm, banks_modFbm, true_and, and_true, fbm_modFbm]
    refine ⟨by funext b; simp, ?_⟩
    funext b
    split
    · subst b; simp [h]
    · rfl
  · simpa [coming] using i.window b
  · simpa using i.active b
  · simpa using i.still b
  · simpa [pendingUses] using i.uses b

theorem does_modMg (f : MG → MG)
    (h : Inv s → (s.seq a).sq = .halted ∨ (s.seq a).sq = .off → (s.mg a).motion = .still →
      (f (s.mg a)).motion = .still) : Does s (s.modMg a f) := by
  refine ⟨kept_modMg s a f,
    fun i => ⟨i.queue, i.signals, i.rdv, fun b => ?_, fun b => ?_, fun b => ?_, fun b => ?_⟩⟩
  · simpa [coming] using i.window b
  · simpa using i.active b
  · intro hb
    simp only [seq_modMg] at hb
    simp only [mg_modMg]
    split
    · subst b; exact h i hb (i.still a hb)
    · exact i.still b hb
  · simpa [pendingUses] using i.uses b

/-- The MG's motion state is kept. -/
theorem does_mgKeep (f : MG → MG) (h : ∀ m, (f m).motion = m.motion) : Does s (s.modMg a f) :=
  does_modMg s a f fun _ _ hm => (h _).trans hm

/-- The MG of an axis that is not at rest by its sequencer. -/
theorem does_mgLive (f : MG → MG) (h : Inv s → (s.seq a).sq ≠ .halted ∧ (s.seq a).sq ≠ .off) :
    Does s (s.modMg a f) :=
  does_modMg s a f fun i hq _ => by rcases hq with hq | hq <;> simp [h i] at hq

theorem pendingUses_modSeq (f : Seq → Seq) (b : BankNo) :
    pendingUses (s.modSeq a f) b + (s.seq a).window.countP (usesBank b) =
      pendingUses s b + (f (s.seq a)).window.countP (usesBank b) := by
  fin_cases a <;> simp [pendingUses] <;> omega

/-- What a new sequencer of an axis must be for the invariant, its room and its uses apart. -/
structure SeqOk (s : State) (a : Axis) (q : Seq) : Prop where
  tail : ∀ e ∈ q.window.tail, e.isPending = true
  active : q.activeEntry ≠ none → q.sq = .run
  still : q.sq = .halted ∨ q.sq = .off → (s.mg a).motion = .still

/-- The invariant after a change of a sequencer that is accompanied by one of the use counts. -/
theorem inv_seqUses {t : State} (f : Seq → Seq) (i : Inv s) (h : SeqOk s a (f (s.seq a)))
    (u : BankNo → Nat)
    (hq : t.queue = s.queue) (hs : t.signals = s.signals) (hr : t.rdv = s.rdv)
    (hg : ∀ b, b ≠ a → coming t b ≤ coming s b)
    (hw : (f (s.seq a)).window.length + coming t a ≤ 4) (ha : t.axes = (s.modSeq a f).axes)
    (hb : ∀ b, (t.bank b).uses = u b)
    (hu : ∀ b, u b + (s.seq a).window.countP (usesBank b) =
      (s.bank b).uses + (f (s.seq a)).window.countP (usesBank b)) : Inv t := by
  have hseq : ∀ b, t.seq b = (s.modSeq a f).seq b := fun b => by simp only [State.seq, State.axis, ha]
  have hmg : ∀ b, t.mg b = s.mg b := fun b => by
    rw [← mg_modSeq s a b f]; simp only [State.mg, State.axis, ha]
  refine ⟨by simp only [queueOk, hq]; exact i.queue,
    fun n => by simp only [State.signal, hs]; exact i.signals n,
    fun e => by simp only [State.entry, hr]; exact i.rdv e, fun b => ?_, fun b => ?_, fun b => ?_,
    fun b => ?_⟩
  · rw [hseq b, seq_modSeq]
    split
    · subst b; exact ⟨hw, h.tail⟩
    · rename_i n
      exact ⟨by have := (i.window b).1; have := hg b n; omega, (i.window b).2⟩
  · rw [hseq b, seq_modSeq]
    split
    · exact h.active
    · exact i.active b
  · rw [hseq b, hmg b, seq_modSeq]
    split
    · subst b; exact h.still
    · exact i.still b
  · have e1 : pendingUses t b = pendingUses (s.modSeq a f) b := by simp only [pendingUses, hseq]
    have e2 := pendingUses_modSeq s a f b
    have e3 := i.uses b
    have e4 := hu b
    rw [hb b, e1]
    omega

theorem does_modSeq (f : Seq → Seq)
    (hl : (f (s.seq a)).window.length ≤ (s.seq a).window.length)
    (h : Inv s → SeqOk s a (f (s.seq a)))
    (hu : Inv s → ∀ b, (f (s.seq a)).window.countP (usesBank b) =
      (s.seq a).window.countP (usesBank b)) : Does s (s.modSeq a f) :=
  ⟨kept_modSeq s a f, fun i => inv_seqUses s a f i (h i) (fun b => (s.bank b).uses) rfl rfl rfl
    (fun _ _ => Nat.le_refl _) ((Nat.add_le_add_right hl _).trans (i.window a).1) rfl (fun _ => rfl)
    fun b => by rw [hu i b]⟩

/-- A change of a sequencer that keeps its state and its window. -/
theorem does_seqKeep (f : Seq → Seq) (h : ∀ q, (f q).sq = q.sq ∧ (f q).window = q.window) :
    Does s (s.modSeq a f) := by
  have hw : (f (s.seq a)).window = (s.seq a).window := (h _).2
  have hq : (f (s.seq a)).sq = (s.seq a).sq := (h _).1
  refine does_modSeq s a f (by rw [hw]) (fun i => ⟨?_, ?_, ?_⟩) fun _ b => by rw [hw]
  · rw [hw]; exact (i.window a).2
  · have : (f (s.seq a)).activeEntry = (s.seq a).activeEntry := by simp only [Seq.activeEntry, hw]
    rw [this, hq]; exact i.active a
  · rw [hq]; exact i.still a

end Axes

end Sys2Proof.Laws
end

