-- ==== Sys2Proof/Laws/Completion.lean ====
section
/-! SUPPORT. The Completion Unit's operations and the transfers of Machine/Completion.lean: what each
does to the queue, and that each keeps what `Does` says. -/

namespace Sys2Proof.Laws

open Sys2Proof.Machine Sys2Proof.Safety

/-! ### Places -/

theorem free_pos (q : Queue) : 0 < q.free ↔ q.held < placeCount := by simp [Queue.free]

theorem held_reserve (q : Queue) (h : Holder) :
    ({ q with reserved := q.reserved ++ [h] } : Queue).held = q.held + 1 := by
  simp [Queue.held]; omega

theorem held_place (q : Queue) (c : Completion) :
    ({ q with filled := q.filled ++ [c] } : Queue).held = q.held + 1 := by
  simp [Queue.held]; omega

theorem held_fill (q : Queue) (h : Holder) (c : Completion) (m : h ∈ q.reserved) :
    ({ q with reserved := q.reserved.erase h, filled := q.filled ++ [c] } : Queue).held = q.held := by
  have := List.length_pos_of_mem m
  simp [Queue.held, List.length_erase_of_mem m]; omega

theorem held_return (q : Queue) (h : Holder) :
    ({ q with reserved := q.reserved.erase h } : Queue).held ≤ q.held := by
  have : (q.reserved.erase h).length ≤ q.reserved.length := List.length_erase_le
  simp [Queue.held]; omega

section
variable (s : State)

theorem does_reserve (h : Holder) : Does s (s.reserve h) :=
  does_ite (fun p => does_queue s _ fun _ => by rw [held_reserve]; exact (free_pos _).1 p)
    fun _ => .refl s

theorem does_fill (h : Holder) (c : Completion) : Does s (s.fill h c) :=
  does_ite (fun p => does_queue s _ fun k => by rw [held_fill _ _ _ p]; exact k) fun _ => .refl s

theorem does_returnPlace (h : Holder) : Does s (s.returnPlace h) :=
  does_queue s _ fun k => (held_return _ h).trans k

theorem does_placeRecord (c : Completion) : Does s (s.placeRecord c) :=
  does_ite (fun p => does_queue s _ fun _ => by rw [held_place]; exact (free_pos _).1 p)
    fun _ => .refl s

/-! ### The owed list -/

theorem does_sourcePlaced (o : Owed) : Does s (sourcePlaced s o) := by
  unfold sourcePlaced
  split
  · split
    · exact does_setCap s _ _
    · exact does_setCap s _ _
    · exact .refl s
  · exact does_overflowMask s 0
  · exact .refl s
  · exact .refl s

theorem does_placeFirstOwed : Does s s.placeFirstOwed := by
  unfold State.placeFirstOwed
  split
  · exact .refl s
  · rename_i o rest _
    split
    · exact ((does_owed s rest).trans (does_placeRecord _ _)).trans (does_sourcePlaced _ o)
    · exact does_owed s rest

theorem does_serveOwedUpTo (n : Nat) : Does s (serveOwedUpTo n s) := by
  induction n generalizing s with
  | zero => exact .refl s
  | succ n ih => exact does_ite (fun _ => (does_placeFirstOwed s).trans (ih _)) fun _ => .refl s

theorem does_serveOwed : Does s s.serveOwed := does_serveOwedUpTo s _

theorem does_owe (o : Owed) : Does s (s.owe o) := (does_owed s _).trans (does_serveOwed _)

theorem does_secondReason (a : Axis) (r : HaltReason) : Does s (s.secondReason a r) := does_owed s _

theorem does_oweHalted (a : Axis) (r : HaltReason) (p v : Int) : Does s (s.oweHalted a r p v) :=
  does_ite (fun _ => does_secondReason s a r) fun _ => does_owe s _

/-! ### Writing CPL -/

theorem does_beginCplWrite : Does s s.beginCplWrite := by
  unfold State.beginCplWrite
  split
  · rename_i c rest hw hf
    refine does_ite (fun _ => does_queue s _ fun k => ?_) fun _ => .refl s
    simp only [Queue.held, hw, hf] at k ⊢
    simp at k ⊢
    omega
  · exact .refl s

theorem does_completeCplWrite : Does s s.completeCplWrite := by
  unfold State.completeCplWrite
  split
  · rename_i c hw
    refine ((does_queue s { s.queue with writing := none } fun k => ?_).trans (does_cpl _ _)).trans
      (does_moderator _ _)
    simp only [Queue.held, hw] at k ⊢
    simp at k ⊢
    omega
  · exact .refl s

/-! ### Rings and the Control Engine -/

theorem fetch_dueReport (r : Ring) : r.dueReport.fetch = r.fetch := by
  unfold Ring.dueReport; split <;> rfl

theorem fetch_pass (r : Ring) (n : Nat) : (r.pass n).fetch = r.fetch := by
  unfold Ring.pass; split
  · rfl
  · rw [fetch_dueReport]

theorem does_beginFetch (a : Axis) : Does s (State.beginFetch a s) := by
  refine does_ite (fun p => does_begin s a _ ?_) fun _ => .refl s
  simp only [State.mayFetch, Bool.and_eq_true, decide_eq_true_eq] at p
  exact p.1.2

theorem does_beginFetches : Does s s.beginFetches := does_forEach _ (fun a s => does_beginFetch s a) s

theorem does_cteClaim : Does s s.cteClaim := does_ite (fun _ => does_cte s _) fun _ => .refl s

theorem does_endCommand (seq tag : BitVec 16) (n : Bool) (a : Answer) :
    Does s (s.endCommand seq tag n a) :=
  (does_fill s _ _).trans (does_cte _ _)

theorem does_endBarrier (b : BarrierRec) (st : CmdStatus) (y : Byte) : Does s (s.endBarrier b st y) :=
  does_endCommand s _ _ _ _

theorem does_barrierHalt (a : Axis) (r : HaltReason) : Does s (s.barrierHalt a r) := by
  unfold State.barrierHalt
  split
  · exact does_ite (fun _ => does_endBarrier s _ _ _) fun _ => .refl s
  · exact .refl s

theorem does_judgeBarrier : Does s s.judgeBarrier := by
  unfold State.judgeBarrier
  split
  · exact does_ite (fun _ => does_endBarrier s _ _ _) fun _ => .refl s
  · exact .refl s

theorem does_barrierPass (a : Axis) : Does s (s.barrierPass a) := by
  unfold State.barrierPass
  split
  · exact does_cte s _
  · exact .refl s

end

end Sys2Proof.Laws
end

