-- ==== Sys2Proof/Laws/Halting.lean ====
section
/-! SUPPORT. The operations of Machine/Halting.lean: what a change of the head entry does, what the Signal
Board, the watchers and the rendezvous table leave alone, and that claims, posts, halt causes and the
deviation test keep what `Does` says. -/

namespace Sys2Proof.Laws

open Sys2Proof.Machine Sys2Proof.Safety

/-! ### The head entry -/

/-- An axis has no active segment. -/
def NoActive (s : State) (a : Axis) : Prop := (s.seq a).activeEntry = none

theorem activeEntry_none {q : Seq} :
    q.activeEntry = none ↔ ∀ e rest, q.window = e :: rest → e.isPending = true := by
  unfold Seq.activeEntry
  split <;> simp_all

theorem activeEntry_some {q : Seq} (h : q.activeEntry ≠ none) :
    ∃ e rest, q.window = e :: rest ∧ e.isPending = false := by
  cases hw : q.window with
  | nil => simp [Seq.activeEntry, hw] at h
  | cons e rest => refine ⟨e, rest, rfl, ?_⟩; simpa [Seq.activeEntry, hw] using h

theorem candidate_some {q : Seq} {e : Entry} (h : q.candidate = some e) :
    ∃ rest, q.window = e :: rest ∧ e.isPending = true := by
  cases hw : q.window with
  | nil => simp [Seq.candidate, hw] at h
  | cons d rest =>
    by_cases p : d.isPending = true
    · simp [Seq.candidate, hw, p] at h; subst h; exact ⟨rest, rfl, p⟩
    · simp [Seq.candidate, hw, p] at h

theorem noActive_of_candidate {s : State} {a : Axis} {e : Entry} (h : (s.seq a).candidate = some e) :
    NoActive s a := by
  obtain ⟨rest, hw, p⟩ := candidate_some h
  simp [NoActive, Seq.activeEntry, hw, p]

theorem noActive_of_empty {s : State} {a : Axis} (h : (s.seq a).window = []) : NoActive s a := by
  simp [NoActive, Seq.activeEntry, h]

/-- Only an axis in SQ_RUN has an active segment. -/
theorem noActive_of_sq {s : State} {a : Axis} (i : Inv s) (h : (s.seq a).sq ≠ .run) :
    NoActive s a := by
  by_contra n; exact h (i.active a n)

@[simp] theorem sq_setHead (q : Seq) (st : EntryState) : (q.setHead st).sq = q.sq := by
  unfold Seq.setHead; split <;> rfl

@[simp] theorem length_setHead (q : Seq) (st : EntryState) :
    (q.setHead st).window.length = q.window.length := by
  unfold Seq.setHead; split <;> simp_all

@[simp] theorem tail_setHead (q : Seq) (st : EntryState) :
    (q.setHead st).window.tail = q.window.tail := by
  unfold Seq.setHead; split <;> simp_all

theorem activeEntry_setHead_pending (q : Seq) (p : Progress) :
    (q.setHead (.pending p)).activeEntry = none := by
  unfold Seq.setHead; split <;> simp_all [Seq.activeEntry, Entry.isPending]

theorem usesBank_congr {b : BankNo} {d e : Entry} (h : d.seg = e.seg)
    (p : d.isPending = e.isPending) : usesBank b d = usesBank b e := by
  simp [usesBank, h, p]

theorem countP_setHead_pending (q : Seq) (p : Progress) (h : q.activeEntry = none) (b : BankNo) :
    (q.setHead (.pending p)).window.countP (usesBank b) = q.window.countP (usesBank b) := by
  unfold Seq.setHead
  split
  · rename_i e rest hw
    have hp := activeEntry_none.1 h e rest hw
    have hu : usesBank b { e with state := .pending p } = usesBank b e := usesBank_congr rfl (by rw [hp]; rfl)
    simp only [hw, List.countP_cons, hu]
  · rfl

theorem countP_setHead_active (q : Seq) (x : Option HomeState) (h : q.activeEntry ≠ none)
    (b : BankNo) :
    (q.setHead (.active x)).window.countP (usesBank b) = q.window.countP (usesBank b) := by
  obtain ⟨e, rest, hw, hp⟩ := activeEntry_some h
  simp [Seq.setHead, hw, List.countP_cons, usesBank, Entry.isPending]
  intro h'; simp [Entry.isPending] at hp; simp_all

section
variable (s : State) (a : Axis)

/-- The progress of the candidate and a sequencer state with neither rest. -/
theorem does_wait (p : Progress) (c : WaitCause) (h : Inv s → NoActive s a) :
    Does s ((s.setProgress a p).setSq a (.wait c)) := by
  have e : (s.setProgress a p).setSq a (.wait c) =
      s.modSeq a fun q => { q.setHead (.pending p) with sq := .wait c } := modSeq_modSeq s a _ _
  rw [e]
  refine does_modSeq s a _ (by simp) (fun i => ⟨?_, ?_, ?_⟩) fun i b => ?_
  · simpa using (i.window a).2
  · intro n; exact absurd (activeEntry_setHead_pending _ p) n
  · simp
  · exact countP_setHead_pending _ p (h i) b

theorem kept_waitCond : kept (s.waitCond a) = kept s :=
  (kept_modSeq _ a _).trans (kept_modSeq s a _)

theorem does_waitCond (h : Inv s → NoActive s a) : Does s (s.waitCond a) := does_wait s a _ _ h

theorem does_claimStart (h : Inv s → NoActive s a) : Does s (s.claimStart a) :=
  (does_wait s a _ _ h).trans (does_addClaim _ _)

theorem does_claimReject (r : RejectReason) (h : Inv s → NoActive s a) : Does s (s.claimReject a r) :=
  (does_wait s a _ _ h).trans (does_addClaim _ _)

theorem does_meet : Does s (s.meet a) :=
  does_ite (fun p => does_claimStart s a fun i => noActive_of_sq i (by simp [p])) fun _ => .refl s

/-! ### The Signal Board and the watchers -/

theorem does_judgeHead (n : SignalNo) : Does s (s.judgeHead n) := by
  unfold State.judgeHead
  split
  · exact does_ite (fun _ => does_meet s _) fun _ => .refl s
  · exact .refl s

theorem does_overflowed (n : SignalNo) : Does s (s.overflow n) :=
  does_ite (fun _ => (does_overflow s _ _).trans (does_owe _ _)) fun _ => does_overflowMask s _

theorem does_postSignal (n : SignalNo) (k : Nat) : Does s (s.postSignal n k) := by
  unfold State.postSignal
  refine Does.trans ?_ (does_judgeHead _ n)
  have h := does_modSignal s n (fun x => { x with count := min ((s.signal n).count + k) signalMax })
    fun _ => Nat.min_le_right _ _
  exact does_ite (fun _ => h.trans (does_overflowed _ n)) fun _ => h

theorem does_leaveList (n : SignalNo) : Does s (State.leaveList a n s) :=
  does_ite (fun _ => (does_modSignal s n _ fun h => h).trans
    (does_ite (fun _ => does_judgeHead _ n) fun _ => .refl _)) fun _ => .refl s

theorem does_leaveWaiters : Does s (s.leaveWaiters a) :=
  does_forEach _ (fun n s => does_leaveList s a n) s

theorem does_setWatcher (b : Axis) (x : Option Watcher) : Does s (s.setWatcher a b x) :=
  does_mgKeep s a _ fun _ => rfl

theorem does_removeWatchers : Does s (s.removeWatchers a) :=
  does_forEach _ (fun w s => does_setWatcher s w a none) s

theorem does_serveWatcher (b : Axis) : Does s (State.serveWatcher a b s) := by
  unfold State.serveWatcher
  split
  · exact does_ite (fun _ => (does_setWatcher s a b none).trans (does_meet _ b)) fun _ => .refl s
  · exact .refl s

theorem does_serveWatchers : Does s (s.serveWatchers a) :=
  does_forEach _ (fun b s => does_serveWatcher s a b) s

end

/-! ### What owing leaves alone -/

theorem axes_sourcePlaced (s : State) (o : Owed) : (sourcePlaced s o).axes = s.axes := by
  unfold sourcePlaced
  split
  · split <;> rfl
  · rfl
  · rfl
  · rfl

theorem axes_placeRecord (s : State) (c : Completion) : (s.placeRecord c).axes = s.axes := by
  unfold State.placeRecord; split <;> rfl

theorem axes_placeFirstOwed (s : State) : s.placeFirstOwed.axes = s.axes := by
  unfold State.placeFirstOwed
  split
  · rfl
  · split
    · rw [axes_sourcePlaced, axes_placeRecord]
    · rfl

theorem axes_serveOwedUpTo (n : Nat) (s : State) : (serveOwedUpTo n s).axes = s.axes := by
  induction n generalizing s with
  | zero => rfl
  | succ n ih =>
    unfold serveOwedUpTo
    split
    · rw [ih, axes_placeFirstOwed]
    · rfl

@[simp] theorem axes_owe (s : State) (o : Owed) : (s.owe o).axes = s.axes := axes_serveOwedUpTo _ _

@[simp] theorem seq_owe (s : State) (o : Owed) (a : Axis) : (s.owe o).seq a = s.seq a := by
  simp [State.seq, State.axis]

@[simp] theorem axes_overflow (s : State) (n : SignalNo) : (s.overflow n).axes = s.axes := by
  unfold State.overflow; split
  · rw [axes_owe]
  · rfl

@[simp] theorem axes_fill (s : State) (h : Holder) (c : Completion) : (s.fill h c).axes = s.axes := by
  unfold State.fill; split <;> rfl

/-- A meeting changes only the sequencer of an axis that waits on its condition. -/
theorem seq_meet (s : State) (a b : Axis) (h : (s.seq a).sq ≠ .wait .cond) :
    (s.meet b).seq a = s.seq a := by
  unfold State.meet
  split
  · by_cases e : a = b
    · subst e; contradiction
    · simp [State.claimStart, State.addClaim, State.setProgress, State.setSq, State.seq, e, State.modSeq,
        State.axis, State.modAxis, setAt_get]
  · rfl

theorem seq_judgeHead (s : State) (a : Axis) (n : SignalNo) (h : (s.seq a).sq ≠ .wait .cond) :
    (s.judgeHead n).seq a = s.seq a := by
  unfold State.judgeHead
  split
  · split
    · exact seq_meet s a _ h
    · rfl
  · rfl

theorem seq_postSignal (s : State) (a : Axis) (n : SignalNo) (k : Nat)
    (h : (s.seq a).sq ≠ .wait .cond) : (s.postSignal n k).seq a = s.seq a := by
  unfold State.postSignal
  rw [seq_judgeHead]
  · split
    · simp only [State.seq, State.axis, axes_overflow]; rfl
    · rfl
  · split
    · simpa [State.seq, State.axis] using h
    · exact h

/-- An axis without an active segment has none after a meeting. -/
theorem noActive_meet (s : State) (a b : Axis) (h : NoActive s a) : NoActive (s.meet b) a := by
  unfold State.meet
  split
  · by_cases e : a = b
    · subst e
      have : ((s.claimStart a).seq a) = { (s.seq a).setHead (.pending .waitStart) with sq := .wait .place } := by
        simp [State.claimStart, State.addClaim, State.setProgress, State.setSq, State.modSeq, State.seq,
          State.axis, State.modAxis]
      simp only [NoActive, this]
      exact activeEntry_setHead_pending _ _
    · have : (s.claimStart b).seq a = s.seq a := by
        simp [State.claimStart, State.addClaim, State.setProgress, State.setSq, State.seq, e, State.modSeq,
          State.axis, State.modAxis, setAt_get]
      simpa [NoActive, this] using h
  · exact h

theorem noActive_judgeHead (s : State) (a : Axis) (n : SignalNo) (h : NoActive s a) :
    NoActive (s.judgeHead n) a := by
  unfold State.judgeHead
  split
  · split
    · exact noActive_meet s a _ h
    · exact h
  · exact h

theorem noActive_leaveList (s : State) (a b : Axis) (n : SignalNo) (h : NoActive s a) :
    NoActive (State.leaveList b n s) a := by
  unfold State.leaveList
  split
  · simp only
    split
    · exact noActive_judgeHead _ a n h
    · exact h
  · exact h

/-- A property that each item of a list keeps is kept by the list. -/
theorem forEach_keeps {α : Type} {P : State → Prop} {f : α → State → State}
    (h : ∀ x s, P s → P (f x s)) (l : List α) (s : State) (p : P s) : P (forEach l f s) := by
  induction l generalizing s with
  | nil => exact p
  | cons x l ih => exact ih _ (h x s p)

theorem noActive_leaveWaiters (s : State) (a b : Axis) (h : NoActive s a) :
    NoActive (s.leaveWaiters b) a :=
  forEach_keeps (P := fun s => NoActive s a) (fun n s => noActive_leaveList s a b n) _ s h

@[simp] theorem seq_setWatcher (s : State) (w b a : Axis) (x : Option Watcher) :
    (s.setWatcher w b x).seq a = s.seq a := by
  simp [State.setWatcher]

@[simp] theorem seq_removeWatchers (s : State) (b a : Axis) :
    (s.removeWatchers b).seq a = s.seq a := by
  simp [State.removeWatchers, allAxes]

/-! ### The halt event -/

theorem pending_disarmed (e : Entry) :
    (if e.isPending then { e with state := .pending .notArmed } else e : Entry).isPending = e.isPending := by
  split
  · rename_i h; rw [h]; rfl
  · rfl

theorem usesBank_disarmed (b : BankNo) (e : Entry) :
    usesBank b (if e.isPending then { e with state := .pending .notArmed } else e) = usesBank b e :=
  usesBank_congr (by split <;> rfl) (pending_disarmed e)

theorem activeEntry_disarm {q : Seq} : q.disarm.activeEntry ≠ none → q.activeEntry ≠ none := by
  intro h k
  apply h
  rw [activeEntry_none] at k ⊢
  intro e rest hw
  cases hq : q.window with
  | nil => simp [Seq.disarm, hq] at hw
  | cons d tl =>
    simp only [Seq.disarm, hq, List.map_cons, List.cons.injEq] at hw
    rw [← hw.1, pending_disarmed]
    exact k d tl hq

section
variable (s : State) (a : Axis)

theorem does_disarm : Does s (s.modSeq a Seq.disarm) := by
  refine does_modSeq s a _ (by simp [Seq.disarm]) (fun i => ⟨?_, ?_, i.still a⟩) fun _ b => ?_
  · intro e he
    simp only [Seq.disarm, ← List.map_tail, List.mem_map] at he
    obtain ⟨d, hd, rfl⟩ := he
    rw [pending_disarmed]
    exact (i.window a).2 d hd
  · exact fun h => i.active a (activeEntry_disarm h)
  · simp only [Seq.disarm, List.countP_map]
    exact List.countP_congr fun e _ => by
      simp only [Function.comp_apply]; rw [usesBank_disarmed]

theorem does_withdraw : Does s (s.withdraw a) :=
  (((does_dropClaim s _).trans (does_leaveWaiters _ a)).trans (does_removeWatchers _ a)).trans
    (does_disarm _ a)

theorem noActive_withdraw (h : NoActive s a) : NoActive (s.withdraw a) a := by
  have h1 : NoActive (s.dropClaim (.axis a)) a := h
  have h2 : NoActive (((s.dropClaim (.axis a)).leaveWaiters a).removeWatchers a) a := by
    have := noActive_leaveWaiters _ a a h1
    simpa [NoActive] using this
  by_contra n
  simp only [NoActive, State.withdraw, seq_modSeq, if_true] at n
  exact activeEntry_disarm n h2

/-- The head entry of an axis with an active segment is removed. -/
theorem does_removeHead (h : Inv s → (s.seq a).activeEntry ≠ none) : Does s (s.removeHead a) := by
  refine does_modSeq s a _ (by simp) (fun i => ⟨?_, ?_, i.still a⟩) fun i b => ?_
  · exact fun e he => (i.window a).2 e (List.mem_of_mem_tail he)
  · exact fun _ => i.active a (h i)
  · obtain ⟨e, rest, hw, hp⟩ := activeEntry_some (h i)
    simp [hw, usesBank, hp]

theorem noActive_removeHead (i : Inv s) : NoActive (s.removeHead a) a := by
  simp only [NoActive, State.removeHead, seq_modSeq, if_true]
  rw [activeEntry_none]
  intro e rest hw
  exact (i.window a).2 e (by simp only at hw; simp [hw])

theorem does_recomputePosBlocks : Does s (s.recomputePosBlocks a) :=
  does_seqKeep s a _ fun _ => ⟨rfl, rfl⟩

theorem does_followPosBlocks : Does s (s.followPosBlocks a) :=
  does_ite (fun _ => .refl s) fun _ => does_recomputePosBlocks s a

theorem does_recomputeLineBlocks : Does s (s.recomputeLineBlocks a) :=
  does_seqKeep s a _ fun _ => ⟨rfl, rfl⟩

theorem does_abortOrOwe (s₀ : State) (r : HaltReason) (h : (s.seq a).window = (s₀.seq a).window) :
    Does s (s.abortOrOwe s₀ a r) := by
  unfold State.abortOrOwe
  split
  · rename_i e he
    have hf : Does s ((s.fill (.axis a) (segAborted s₀ a e r)).removeHead a) := by
      refine (does_fill s _ _).trans (does_removeHead _ a fun _ => ?_)
      simp only [Seq.activeEntry, State.seq, State.axis, axes_fill] at he h ⊢
      rw [h, he]; simp
    exact does_ite (fun _ => hf.trans (does_recomputePosBlocks _ a)) fun _ => hf
  · exact does_oweHalted s a r _ _

theorem noActive_abortOrOwe (s₀ : State) (r : HaltReason) (i : Inv s)
    (h : (s.seq a).window = (s₀.seq a).window) : NoActive (s.abortOrOwe s₀ a r) a := by
  have heq : (s.seq a).activeEntry = (s₀.seq a).activeEntry := by simp only [Seq.activeEntry, h]
  unfold State.abortOrOwe
  split
  · have := noActive_removeHead _ a ((does_fill s (.axis a) (segAborted s₀ a ‹_› r)).inv i)
    split
    · simp only [NoActive, State.recomputePosBlocks, seq_modSeq, if_true]
      exact this
    · exact this
  · rename_i hn
    have : (s.oweHalted a r (s₀.mg a).pos (s₀.mg a).velocity).seq a = s.seq a := by
      unfold State.oweHalted State.secondReason
      split
      · rfl
      · simp
    simp only [NoActive, this, heq, hn]

theorem does_unarrive (e : EntryNo) : Does s (s.modEntry e fun x => { x with arrived := 0 }) :=
  does_modEntry s e _ fun k => ⟨by simp, fun _ => rfl, k.2.2⟩

theorem does_breakEntry (e : EntryNo) :
    Does s (s.modEntry e fun x => { x with state := .broken, arrived := 0 }) :=
  does_modEntry s e _ fun _ => ⟨by simp, fun _ => rfl, fun c => by simp at c⟩

/-- What breaking the entries for an axis does: the state, its axes apart from the entries' effects. -/
theorem does_breakFor : Does s (s.breakFor a).1 ∧ (s.breakFor a).1.axes = s.axes := by
  unfold State.breakFor
  generalize hg : (s, (0 : BitVec 4)) = p
  have hp : Does s p.1 ∧ p.1.axes = s.axes := by subst hg; exact ⟨.refl s, rfl⟩
  clear hg
  induction allEntries generalizing p with
  | nil => exact hp
  | cons e l ih =>
    refine ih _ ?_
    simp only
    split
    · split
      · exact ⟨(hp.1.trans (does_dropClaim _ _)).trans (does_unarrive _ e), hp.2⟩
      · exact ⟨(hp.1.trans (does_dropClaim _ _)).trans (does_breakEntry _ e), hp.2⟩
    · exact hp

theorem does_breakCommon (m : BitVec 4) : Does s (s.breakCommon m) :=
  does_forEach _ (fun e s => does_ite (fun _ => .refl s) fun _ =>
    (does_dropClaim s _).trans (does_breakEntry _ e)) s

theorem motion_stop (m : MG) (k : StopKind) (d : Nat) (h : m.motion = .still) :
    (m.stop k d).motion = .still := by
  cases k <;> simp [MG.stop, MG.softStop, MG.hardStop, MG.stand, MG.clearGoal, h]

theorem does_stop (k : StopKind) (d : Nat) : Does s (s.modMg a fun m => m.stop k d) :=
  does_modMg s a _ fun _ _ h => motion_stop _ k d h

/-- An axis without an active segment comes to a state of halting. -/
theorem does_setHalt (h : Inv s → NoActive s a) :
    Does s (s.setSq a (if (s.mg a).isStill then .halted else .halting)) := by
  refine does_modSeq s a _ (Nat.le_refl _) (fun i => ⟨(i.window a).2, ?_, ?_⟩) fun _ _ => rfl
  · intro n
    exact absurd (h i) n
  · simp only
    split
    · rename_i k; simpa [MG.isStill] using k
    · simp

theorem does_haltEvent (n : Nat) (r : HaltReason) (k : StopKind) (common : Bool) :
    Does s (haltEvent n a r k common s) := by
  induction n generalizing s a r k common with
  | zero => exact .refl s
  | succ n ih =>
    unfold haltEvent
    simp only
    refine Does.trans ?_ (does_foldl _ (fun s b => ih s b .group .soft false) _)
    refine Does.trans ?_ (does_barrierHalt _ a r)
    have h1 : Does s (s.modSeq a fun q => { q with reason := some r }) :=
      does_seqKeep s a _ fun _ => ⟨rfl, rfl⟩
    have h2 := h1.trans (does_stop _ a k (s.cfg a).stopDecel)
    have hw : (((s.modSeq a fun q => { q with reason := some r }).modMg a
        fun m => m.stop k (s.cfg a).stopDecel).seq a).window = (s.seq a).window := by simp
    have h3 := h2.trans (does_abortOrOwe _ a s r hw)
    have h4 := h3.trans (does_withdraw _ a)
    have hn (i : Inv s) := noActive_withdraw _ a (noActive_abortOrOwe _ a s r (h2.inv i) hw)
    cases common with
    | true =>
      simp only [if_true]
      exact ⟨(kept_modSeq _ a _).trans h4.kept,
        fun i => (does_setHalt _ a fun _ => hn i).inv (h4.inv i)⟩
    | false =>
      simp only [Bool.false_eq_true, if_false]
      obtain ⟨hb, ha⟩ := does_breakFor
        (((((s.modSeq a fun q => { q with reason := some r }).modMg a
          fun m => m.stop k (s.cfg a).stopDecel).abortOrOwe s a r).withdraw a)) a
      have h5 := h4.trans hb
      refine ⟨(kept_modSeq _ a _).trans h5.kept, fun i => (does_setHalt _ a fun _ => ?_).inv (h5.inv i)⟩
      have := hn i
      simpa only [NoActive, State.seq, State.axis, ha] using this

theorem does_furtherCause (r : HaltReason) (k : StopKind) (h : (s.seq a).sq ≠ .run) :
    Does s (s.furtherCause a r k) := by
  unfold State.furtherCause
  refine (does_secondReason s a r).trans ?_
  cases k with
  | soft => exact .refl _
  | hard =>
    have h1 := does_modMg (s.secondReason a r) a MG.hardStop fun _ _ _ => rfl
    refine h1.trans ⟨kept_modSeq _ a _, fun i => ?_⟩
    have := (does_setHalt _ a fun i => noActive_of_sq i ?_).inv i
    · simpa [MG.isStill, MG.hardStop, MG.stand] using this
    · rw [seq_modMg]; exact h

theorem does_haltCause (r : HaltReason) (k : StopKind) (common : Bool) :
    Does s (s.haltCause a r k common) := by
  unfold State.haltCause
  split
  · exact does_haltEvent s a _ r k common
  · exact does_haltEvent s a _ r k common
  · exact does_haltEvent s a _ r k common
  · rename_i h; exact does_furtherCause s a r k (by simp [h])
  · exact .refl s
  · exact .refl s

theorem does_haltAll (r : HaltReason) (k : StopKind) : Does s (s.haltAll r k) :=
  (does_breakCommon s _).trans (does_forEach _ (fun a s => does_haltCause s a r k true) _)

theorem does_stopAllRequest (k : StopKind) : Does s (s.stopAllRequest k) :=
  does_ite (fun _ => does_haltAll s _ k) fun _ => .refl s

/-! ### The Feedback Monitor -/

theorem does_rebase : Does s (s.rebase a) := does_modFbm s a _ fun _ => ⟨rfl, rfl, rfl⟩

theorem does_takeFault (r : HaltReason) (k : StopKind) : Does s (s.takeFault a r k) := by
  unfold State.takeFault
  refine Does.trans (does_ite (fun _ => ?_) fun _ => .refl s) (does_haltCause _ a r k false)
  exact does_modFbm s a (fun f => { f with enaDropped := true }) fun _ => ⟨rfl, rfl, rfl⟩

theorem does_judgeDeviation : Does s (s.judgeDeviation a).1 := by
  unfold State.judgeDeviation
  split
  · exact does_modFbm s a (fun f => { f with tripped := s.beyondTolerance a }) fun _ => ⟨rfl, rfl, rfl⟩
  · exact .refl s

theorem does_testDeviation : Does s (s.testDeviation a) :=
  does_ite (fun _ => (does_judgeDeviation s a).trans (does_takeFault _ a _ _))
    fun _ => does_judgeDeviation s a

theorem does_setPosition (p : Int) : Does s (s.setPosition a p) := by
  unfold State.setPosition
  have h := does_mgKeep s a (fun m => { m with pos := p }) fun _ => rfl
  exact ((h.trans (does_serveWatchers _ a)).trans (does_rebase _ a)).trans (does_recomputePosBlocks _ a)

end

end Sys2Proof.Laws
end

