-- ==== Sys2Proof/Laws/Sequencer.lean ====
section
/-! SUPPORT. The operations of Machine/Sequencer.lean keep what `Does` says: arming, the completion event,
the homing run, the events of the MG, the grants, and the discard of a window. -/

namespace Sys2Proof.Laws

open Sys2Proof.Machine Sys2Proof.Safety

/-- An axis has an active segment. -/
def HasActive (s : State) (a : Axis) : Prop := (s.seq a).activeEntry ≠ none

/-! ### Arming -/

section
variable (s : State) (a : Axis)

theorem does_waitFire : Does s (State.waitFire a s) :=
  does_ite (fun p => does_wait s a _ _ fun i => noActive_of_sq i (by simp [p])) fun _ => .refl s

theorem arrived_sub (x m : BitVec 4) (a : Axis) (h : x &&& ~~~m = 0) (k : inSet a m = true) :
    (x ||| axisBit a) &&& ~~~m = 0 := by
  ext i hi
  have := congrArg (·.getLsbD i) h
  simp only [inSet, axisBit] at *
  simp only [BitVec.ofNat_eq_ofNat, BitVec.getElem_and, BitVec.getElem_or,
    BitVec.getElem_not, BitVec.getElem_zero, BitVec.getLsbD_eq_getElem hi] at this ⊢
  by_cases e : a.val = i
  · subst e
    simp only [BitVec.getLsbD_eq_getElem hi] at k
    simp [k]
  · have hz : (1#4 <<< a.val)[i] = false := by
      rw [BitVec.getElem_shiftLeft]
      by_cases l : i < a.val
      · simp [l]
      · simp only [l, decide_false, Bool.not_false, Bool.true_and]
        rw [BitVec.getElem_one]
        simp; omega
    simp only [hz, Bool.or_false]
    exact this

theorem does_arrive (e : EntryNo) (hn : Inv s → NoActive s a) (ho : (s.entry e).state = .opened)
    (hm : inSet a (s.entry e).members = true) : Does s (s.arrive a e) := by
  unfold State.arrive
  have h1 := does_modEntry s e (fun r => { r with arrived := r.arrived ||| axisBit a }) fun k =>
    ⟨arrived_sub _ _ _ k.1 hm, fun n => absurd ho n, fun c => by simp [ho] at c⟩
  have h3 : Does s ((s.modEntry e fun r => { r with arrived := r.arrived ||| axisBit a }).waitCond a) :=
    h1.andThen (kept_waitCond _ a) fun i => does_waitCond _ a fun _ => hn i
  exact does_ite (fun _ => (h3.trans (does_forEach _ (fun b s => does_waitFire s b) _)).trans
    (does_addClaim _ _)) fun _ => h3

theorem does_joinSignal (n : SignalNo) (hn : Inv s → NoActive s a) : Does s (s.joinSignal a n) := by
  unfold State.joinSignal
  have h1 := does_modSignal s n (fun x => { x with waiters := x.waiters ++ [a] }) id
  have h3 : Does s ((s.modSignal n fun x => { x with waiters := x.waiters ++ [a] }).waitCond a) :=
    h1.andThen (kept_waitCond _ a) fun i => does_waitCond _ a fun _ => hn i
  exact does_ite (fun _ => h3.trans (does_judgeHead _ n)) fun _ => h3

theorem checkEntry_none {e : EntryNo} (h : s.checkEntry a (.waitRendezvous e) = none) :
    (s.entry e).state = .opened ∧ inSet a (s.entry e).members = true := by
  unfold State.checkEntry at h
  simp only at h
  split at h
  · cases h
  · split at h
    · cases h
    · split at h
      · cases h
      · rename_i n1 n2 n3
        refine ⟨?_, by simpa using n2⟩
        cases hs : (s.entry e).state <;> simp_all

theorem does_judgeStart (st : Start) (hn : Inv s → NoActive s a) (hc : s.checkEntry a st = none) :
    Does s (s.judgeStart a st) := by
  unfold State.judgeStart
  cases st with
  | afterPrevious => exact does_claimStart s a hn
  | waitInput l edge => exact does_ite (fun _ => does_claimStart s a hn) fun _ => does_waitCond s a hn
  | waitSignal n => exact does_joinSignal s a n hn
  | waitPosition w up t =>
    refine does_ite (fun _ => does_claimStart s a hn) fun _ => ?_
    have h1 := does_setWatcher s w a (some ⟨up, t⟩)
    exact h1.andThen (kept_waitCond _ a) fun i =>
      does_waitCond _ a fun _ => by simpa [NoActive] using hn i
  | waitRendezvous e =>
    obtain ⟨ho, hm⟩ := checkEntry_none s a hc
    exact does_arrive s a e hn ho hm

theorem orElse_none {α : Type} {x y : Option α} (h : (x <|> y) = none) : y = none := by
  cases x with
  | none => simpa using h
  | some v => simp at h

theorem does_arm : Does s (s.arm a) := by
  unfold State.arm
  split
  · exact .refl s
  · rename_i e he
    have hn (_ : Inv s) := noActive_of_candidate he
    split
    · exact does_claimReject s a _ hn
    · rename_i b hc hb
      refine does_judgeStart s a _ hn ?_
      simp only [State.armChecks, hb] at hc
      exact orElse_none (orElse_none (orElse_none (orElse_none (orElse_none (orElse_none hc)))))
    · exact .refl s

/-! ### The completion event -/

theorem does_setSq_noActive (q : SqState) (hn : Inv s → NoActive s a)
    (hq : q ≠ .halted ∧ q ≠ .off) : Does s (s.setSq a q) := by
  refine does_modSeq s a _ (Nat.le_refl _) (fun i => ⟨(i.window a).2, ?_, ?_⟩) fun _ _ => rfl
  · exact fun n => absurd (hn i) n
  · simp [hq.1, hq.2]

theorem does_afterCompletion (w : Work) : Does s (s.afterCompletion a w) := by
  unfold State.afterCompletion
  split
  · rename_i hw
    exact (does_setSq_noActive s a .empty (fun _ => noActive_of_empty hw) (by simp)).trans
      (does_haltCause _ a _ _ _)
  · rename_i hw _
    exact does_setSq_noActive s a .empty (fun _ => noActive_of_empty hw) (by simp)
  · exact does_arm s a

theorem does_clearGoal : Does s (s.modMg a MG.clearGoal) := does_mgKeep s a _ fun _ => rfl

theorem does_completionEvent (aux : Int) : Does s (s.completionEvent a aux) := by
  unfold State.completionEvent
  split
  · exact .refl s
  · rename_i e he
    split
    · exact .refl s
    · rename_i b _
      refine Does.trans ?_ (does_afterCompletion _ a b.work)
      refine Does.trans ?_ (does_clearGoal _ a)
      have h1 : Does s ((s.applyOut b.outEnd).fill (.axis a) (segDone (s.applyOut b.outEnd) a e aux)) :=
        (does_applyOut s _).trans (does_fill _ _ _)
      have hs : ((s.applyOut b.outEnd).fill (.axis a) (segDone (s.applyOut b.outEnd) a e aux)).seq a
          = s.seq a := by simp only [State.seq, State.axis, axes_fill]; rfl
      have ha : HasActive s a := by simp [HasActive, he]
      generalize (s.applyOut b.outEnd).fill (.axis a) (segDone (s.applyOut b.outEnd) a e aux) = u
        at h1 hs ⊢
      cases b.postSignal with
      | none =>
        exact h1.trans (does_removeHead u a fun _ => by rw [hs]; exact ha)
      | some n =>
        refine (h1.trans (does_postSignal u n 1)).andThen (kept_modSeq _ a _) fun i => ?_
        refine does_removeHead _ a fun _ => ?_
        rw [seq_postSignal u a n 1 (by rw [hs, i.active a ha]; simp), hs]
        exact ha

theorem does_complete (f : MotionState → MotionState)
    (h : Inv s → (s.seq a).sq = .run ∨ f .still = .still) : Does s (s.complete a f) := by
  refine (does_modMg s a _ fun i hq hm => ?_).trans (does_completionEvent _ a _)
  rcases h i with r | r
  · rcases hq with q | q <;> rw [r] at q <;> cases q
  · simp only [hm]; exact r

/-! ### The homing run -/

theorem does_setHoming (x : HomeState) (h : HasActive s a) : Does s (s.setHoming a x) := by
  refine does_modSeq s a _ (by simp) (fun i => ⟨?_, ?_, ?_⟩) fun _ b => countP_setHead_active _ _ h b
  · simpa using (i.window a).2
  · exact fun _ => by simpa using i.active a h
  · simpa using i.still a

theorem active_setHoming (x : HomeState) (h : HasActive s a) : HasActive (s.setHoming a x) a := by
  obtain ⟨e, rest, hw, _⟩ := activeEntry_some h
  simp [HasActive, State.setHoming, Seq.setHead, hw, Seq.activeEntry, Entry.isPending]

theorem does_mgActive (f : MG → MG) (h : HasActive s a) : Does s (s.modMg a f) :=
  does_mgLive s a f fun i => by simp [i.active a h]

theorem does_beginPhase (x : HomeState) (p : HomePhase) (pos : Bool) (b : SegBody)
    (h : HasActive s a) : Does s (s.beginPhase a x p pos b) :=
  (does_setHoming s a _ h).trans (does_mgActive _ a _ (active_setHoming s a _ h))

theorem does_homeFail (k : StopKind) : Does s (s.homeFail a k) := does_haltCause s a _ k _

theorem does_homeStandstill (x : HomeState) (b : SegBody) (h : HasActive s a) :
    Does s (s.homeStandstill a x b) := by
  unfold State.homeStandstill
  simp only
  split
  · exact does_ite (fun _ => does_ite (fun _ => does_homeFail s a _) fun _ => does_beginPhase s a _ _ _ _ h)
      fun _ => does_ite (fun _ => does_homeFail s a _) fun _ => does_beginPhase s a _ _ _ _ h
  · exact does_ite (fun _ => does_homeFail s a _) fun _ => does_beginPhase s a _ _ _ _ h
  · exact does_ite (fun _ => does_homeFail s a _) fun _ => does_beginPhase s a _ _ _ _ h
  · exact .refl s
  · exact .refl s

theorem does_settleEnd (x : HomeState) (b : SegBody) : Does s (s.settleEnd a x b) := by
  unfold State.settleEnd
  split
  · exact .refl s
  · exact does_ite (fun _ => (does_setPosition s a _).trans (does_completionEvent _ a _))
      fun _ => does_homeFail s a _

theorem does_homeEdge (x : HomeState) (b : SegBody) (h : HasActive s a) :
    Does s (s.homeEdge a x b) := by
  unfold State.homeEdge
  have h1 := does_modFbm s a (fun f => { f with homeCount := (s.fbm a).count }) fun _ => ⟨rfl, rfl, rfl⟩
  have h2 := h1.trans (does_setHoming _ a
    { x with phase := .settle, homePoint := some (s.mg a).pos, edgeCount := some (s.fbm a).count }
    (by simpa [HasActive] using h))
  have h3 := fun f => h2.trans (does_mgActive _ a f (active_setHoming _ a _ (by simpa [HasActive] using h)))
  exact does_ite (fun _ => (h3 _).trans (does_settleEnd _ a _ b)) fun _ => h3 _

theorem does_homeDescend (x : HomeState) (b : SegBody) (rate : Nat) (h : HasActive s a) :
    Does s (s.homeDescend a x b rate) := by
  unfold State.homeDescend
  have h3 := fun f => (does_setHoming s a x h).trans (does_mgActive _ a f (active_setHoming s a x h))
  exact does_ite (fun _ => (h3 _).trans (does_homeStandstill _ a x b
    (by have := active_setHoming s a x h; simpa [HasActive] using this))) fun _ => h3 _

/-! ### What the MG reports -/

theorem active_of_homing {x : HomeState} (h : (s.seq a).homing = some x) : HasActive s a := by
  unfold Seq.homing at h
  intro n
  simp [n] at h

theorem does_takeActive (b : SegBody) (ev : MgEvent) (hr : (s.seq a).sq = .run) :
    Does s (s.takeActive a b ev) := by
  unfold State.takeActive
  split
  · exact .refl s
  · exact does_complete s a id fun _ => .inl hr
  · exact does_complete s a _ fun _ => .inl hr
  · exact does_mgLive s a _ fun _ => by simp [hr]
  · split
    · exact does_homeStandstill s a _ b (active_of_homing s a ‹_›)
    · exact .refl s
  · split
    · exact does_settleEnd s a _ b
    · exact .refl s
  · exact does_complete s a id fun _ => .inl hr
  · exact does_complete s a id fun _ => .inl hr
  · exact .refl s

theorem does_takeMgEvent (ev : MgEvent) : Does s (s.takeMgEvent a ev) := by
  unfold State.takeMgEvent
  split
  · rename_i hq
    refine does_ite (fun p => ?_) fun _ => .refl s
    have := does_setHalt s a fun i => noActive_of_sq i (by simp [hq])
    simpa [p] using this
  · split
    · exact does_takeActive s a _ ev ‹_›
    · exact .refl s
  · exact .refl s

end

end Sys2Proof.Laws
end

