-- ==== Sys2Proof/Laws/Grants.lean ====
section
/-! SUPPORT. The changes of a window that go with a change of the bank use counts (R75, R76) keep what
`Does` says: the start event, a rejection, the discard of a window and the join of a record; and with
them the grants to a candidate and to a fire. -/

namespace Sys2Proof.Laws

open Sys2Proof.Machine Sys2Proof.Safety

section
variable (s : State) (a : Axis)

/-! ### Use counts -/

theorem kept_lowerUse (k : Option BankNo) : kept (s.lowerUse k) = kept s := by
  cases k with
  | none => rfl
  | some b =>
    unfold kept State.lowerUse
    simp only [Kept.mk.injEq]
    refine ⟨rfl, rfl, rfl, rfl, rfl, rfl, rfl, rfl, rfl, rfl, rfl, rfl, rfl, ?_⟩
    funext c
    rw [bank_modBank]
    split
    · subst c; rfl
    · rfl

theorem kept_raiseUse (k : Option BankNo) : kept (s.raiseUse k) = kept s := by
  cases k with
  | none => rfl
  | some b =>
    unfold kept State.raiseUse
    simp only [Kept.mk.injEq]
    refine ⟨rfl, rfl, rfl, rfl, rfl, rfl, rfl, rfl, rfl, rfl, rfl, rfl, rfl, ?_⟩
    funext c
    rw [bank_modBank]
    split
    · subst c; rfl
    · rfl

theorem uses_lowerUse (k : Option BankNo) (b : BankNo) :
    ((s.lowerUse k).bank b).uses = (s.bank b).uses - if k = some b then 1 else 0 := by
  cases k with
  | none => simp [State.lowerUse]
  | some c =>
    simp only [State.lowerUse, bank_modBank, Option.some.injEq]
    by_cases h : b = c
    · subst h; simp
    · simp [h, Ne.symm h]

theorem uses_raiseUse (k : Option BankNo) (b : BankNo) :
    ((s.raiseUse k).bank b).uses = (s.bank b).uses + if k = some b then 1 else 0 := by
  cases k with
  | none => simp [State.raiseUse]
  | some c =>
    simp only [State.raiseUse, bank_modBank, Option.some.injEq]
    by_cases h : b = c
    · subst h; simp
    · simp [h, Ne.symm h]

/-- A lowering touches the table of banks only. -/
theorem lowerUse_eq (k : Option BankNo) : ∃ v, s.lowerUse k = { s with banks := v } := by
  cases k <;> exact ⟨_, rfl⟩

theorem raiseUse_eq (k : Option BankNo) : ∃ v, s.raiseUse k = { s with banks := v } := by
  cases k <;> exact ⟨_, rfl⟩

theorem countP_le_pendingUses (b : BankNo) :
    (s.seq a).window.countP (usesBank b) ≤ pendingUses s b := by
  unfold pendingUses; fin_cases a <;> simp <;> omega

theorem usesBank_pending {e : Entry} (h : e.isPending = true) (b : BankNo) :
    usesBank b e = decide (e.seg.bankUse = some b) := by
  unfold usesBank
  rw [h, Bool.true_and]
  by_cases c : e.seg.bankUse = some b <;> simp [c]

/-- A PENDING head entry leaves the PENDING ones, and its use count is lowered with it. -/
theorem does_useHead {e : Entry} {rest : List Entry} (hw : (s.seq a).window = e :: rest)
    (hp : e.isPending = true) (f : Seq → Seq)
    (hl : (f (s.seq a)).window.length ≤ (s.seq a).window.length)
    (hc : ∀ b, (f (s.seq a)).window.countP (usesBank b) = rest.countP (usesBank b))
    (ho : Inv s → SeqOk s a (f (s.seq a))) :
    Does s ((s.lowerUse e.seg.bankUse).modSeq a f) := by
  obtain ⟨v, hv⟩ := lowerUse_eq s e.seg.bankUse
  refine ⟨(kept_modSeq _ a f).trans (kept_lowerUse s _), fun i => ?_⟩
  refine inv_seqUses s a f i (ho i) (fun b => (s.bank b).uses - if e.seg.bankUse = some b then 1 else 0)
    ?_ ?_ ?_ ?_ ?_ ?_ ?_ ?_
  · rw [hv]; rfl
  · rw [hv]; rfl
  · rw [hv]; rfl
  · rw [hv]; exact fun _ _ => Nat.le_refl _
  · rw [hv]; exact (Nat.add_le_add_right hl _).trans (i.window a).1
  · rw [hv]; rfl
  · intro b; exact uses_lowerUse s _ b
  · intro b
    have h1 := i.uses b
    have h2 := countP_le_pendingUses s a b
    rw [hc b]
    simp only [hw, List.countP_cons, usesBank_pending hp, decide_eq_true_eq] at h2 ⊢
    split <;> simp_all; omega

/-! ### The start event -/

theorem does_takeCount (st : Start) : Does s (s.takeCount a st) := by
  unfold State.takeCount
  split
  · exact (does_modSignal s _ (fun x => { x with count := x.count - 1 })
      fun h => (Nat.sub_le _ _).trans h).trans (does_leaveList _ a _)
  · exact .refl s

/-- The candidate becomes ACTIVE, its bank is used no more and its axis runs. -/
theorem does_activate {e : Entry} (he : (s.seq a).candidate = some e) (x : Option HomeState)
    (g : MG → MG) :
    Does s ((((s.lowerUse e.seg.bankUse).modMg a g).modSeq a
      fun q => q.setHead (.active x)).setSq a .run) := by
  obtain ⟨rest, hw, hp⟩ := candidate_some he
  have h1 := does_useHead s a hw hp (fun q => { q.setHead (.active x) with sq := .run })
    (by simp) (fun b => by simp [Seq.setHead, hw, usesBank, Entry.isPending])
    fun i => ⟨by simpa using (i.window a).2, fun _ => rfl, by simp⟩
  have h2 := h1.trans (does_mgLive _ a g fun _ => by simp)
  have e1 : (((s.lowerUse e.seg.bankUse).modMg a g).modSeq a fun q => q.setHead (.active x)).setSq a .run
      = ((s.lowerUse e.seg.bankUse).modSeq a
          fun q => { q.setHead (.active x) with sq := .run }).modMg a g := by
    unfold State.setSq
    rw [modSeq_modSeq, modMg_modSeq]
  rw [e1]
  exact h2

theorem applyOut_lowerUse (k : Option BankNo) (o : OutAction) :
    (s.lowerUse k).applyOut o = (s.applyOut o).lowerUse k := by
  cases k <;> rfl

theorem does_startEvent : Does s (s.startEvent a).1 := by
  unfold State.startEvent
  split
  · exact .refl s
  · rename_i e he
    split
    · exact .refl s
    · rename_i b hb
      refine Does.trans ?_ (does_takeCount _ a b.start)
      cases hk : e.seg.bankUse with
      | none =>
        have h1 := does_applyOut s b.outStart
        have h2 := does_activate (s.applyOut b.outStart) a he
        rw [hk] at h2
        exact h1.trans (h2 _ _)
      | some c =>
        have h0 := does_mgKeep s a (fun m => { m with profile := (s.bank c).profile }) fun _ => rfl
        have h1 := h0.trans (does_applyOut _ b.outStart)
        have h2 := does_activate ((s.modMg a fun m => { m with profile := (s.bank c).profile }).applyOut
          b.outStart) a (e := e) (by
            simpa [State.applyOut, State.seq, State.axis, State.modMg, axis_modAxis, State.modAxis,
              setAt_get] using he)
        rw [hk] at h2
        simp only [State.copyBank, applyOut_lowerUse]
        exact h1.trans (h2 _ _)

/-! ### Rejection -/

theorem does_rejectEntry (r : RejectReason) : Does s (s.rejectEntry a r) := by
  unfold State.rejectEntry
  split
  · exact .refl s
  · rename_i e he
    obtain ⟨rest, hw, hp⟩ := candidate_some he
    have h1 := does_fill s (.axis a) (segRejected s a e r)
    have hs : (s.fill (.axis a) (segRejected s a e r)).seq a = s.seq a := by
      simp [State.seq, State.axis]
    generalize s.fill (.axis a) (segRejected s a e r) = u at h1 hs
    rw [← hs] at hw
    have h2 := does_useHead u a hw hp (fun q => { q with window := q.window.tail }) (by simp)
      (fun b => by simp [hw]) fun i => ⟨fun d hd => (i.window a).2 d (List.mem_of_mem_tail hd),
        fun n => absurd (noActive_removeHead u a i) (by
          simpa [NoActive, State.removeHead] using n), i.still a⟩
    have e1 : (u.removeHead a).lowerUse e.seg.bankUse
        = (u.lowerUse e.seg.bankUse).modSeq a fun q => { q with window := q.window.tail } := by
      cases e.seg.bankUse <;> rfl
    rw [e1]
    exact h1.trans h2

theorem does_reject (r : RejectReason) : Does s (s.reject a r) :=
  (does_rejectEntry s a r).trans (does_haltCause _ a _ _ _)

/-! ### The grants -/

theorem does_grantStart (b : SegBody) (hn : NoActive s a) : Does s (s.grantStart a b) := by
  unfold State.grantStart
  split
  · exact does_reject s a _
  · exact does_ite (fun _ => (does_returnPlace s _).trans (does_waitCond _ a fun _ => hn))
      fun _ => (does_startEvent s a).trans (does_takeMgEvent _ a _)

theorem does_grantAxis : Does s (s.grantAxis a) := by
  unfold State.grantAxis
  split
  · rename_i e he
    split
    · exact does_reject s a _
    · exact does_grantStart s a _ (noActive_of_candidate he)
    · exact does_returnPlace s _
  · exact does_returnPlace s _

theorem does_startAll (l : List Axis) : Does s (startAll l s).1 := by
  induction l generalizing s with
  | nil => exact .refl s
  | cons a l ih => exact (does_startEvent s a).trans (ih _)

/-- The twelve ranks that `orderClaims` looks through hold every claim (R155). -/
theorem claimRank_lt (s : State) (served : Axis) (c : Claim) : s.claimRank served c < 12 := by
  have h := (s.claimAxis c).isLt
  have k : s.claimStep served c ≤ 2 := by
    unfold State.claimStep
    repeat' split
    all_goals omega
  unfold State.claimRank
  omega

theorem does_takeAll (l : List (Axis × (State → State))) (h : ∀ x ∈ l, ∀ s, Does s (x.2 s)) :
    Does s (takeAll l s).1 := by
  induction l generalizing s with
  | nil => exact .refl s
  | cons x l ih => exact (h x (by simp) s).trans (ih _ fun y m => h y (by simp [m]))

theorem does_atOneStep (l : List (Axis × (State → State))) (h : ∀ x ∈ l, ∀ s, Does s (x.2 s)) :
    Does s (s.atOneStep l) := (does_takeAll s l h).trans (does_claims _ _)

theorem does_fired (e : EntryNo) : Does s (s.fired e) :=
  does_modEntry s e _ fun k => ⟨by simp, fun _ => rfl, k.2.2⟩

theorem does_fire (e : EntryNo) (ms : List Axis) : Does s (s.fire e ms) :=
  ((does_startAll s ms).trans (does_fired _ e)).trans (does_atOneStep _ _ fun x h s => by
    obtain ⟨y, _, rfl⟩ := List.mem_map.1 h
    exact does_takeMgEvent s y.1 y.2)

theorem does_failMember (out : Axis → Option RejectReason) : Does s (State.failMember out a s) := by
  unfold State.failMember
  split
  · exact does_rejectEntry s a _
  · exact does_returnPlace s _

theorem does_failFire (e : EntryNo) (ms : List Axis) (out : Axis → Option RejectReason) :
    Does s (s.failFire e ms out) := by
  unfold State.failFire
  refine Does.trans ?_ (does_forEach _ (fun a s => does_haltCause s a _ _ _) _)
  refine (does_forEach ms (fun a s => does_failMember s a out) s).trans ?_
  refine does_modEntry _ e _ fun k => ⟨by simp, fun _ => rfl, ?_⟩
  simp only
  split
  · intro c; cases c
  · exact k.2.2

theorem does_grantFire (e : EntryNo) : Does s (s.grantFire e) :=
  does_ite (fun _ => does_fire s e _) fun _ => does_failFire s e _ _

/-! ### Discarding a window -/

theorem does_barrierPasses (n : Nat) : Does s (barrierPasses n a s) := by
  induction n generalizing s with
  | zero => exact .refl s
  | succ n ih => exact (does_barrierPass s a).trans (ih _)

theorem does_passRecords (n : Nat) : Does s (s.passRecords a n) :=
  (does_modRing s _ _ (by rw [fetch_pass])).trans (does_barrierPasses _ a n)

theorem does_markDiscard : Does s (s.markDiscard a) := by
  refine does_modRing s _ _ ?_
  simp only
  split
  · simp [fetchCount]
  · exact Nat.le_refl _

/-- The use counts after the PENDING entries of a list have released their banks. -/
theorem lower_all (l : List Entry) :
    ∃ v, l.foldl (fun s e => if e.isPending then s.lowerUse e.seg.bankUse else s) s = { s with banks := v }
      ∧ kept { s with banks := v } = kept s
      ∧ ∀ b, (State.bank { s with banks := v } b).uses = (s.bank b).uses - l.countP (usesBank b) := by
  induction l generalizing s with
  | nil => exact ⟨s.banks, rfl, rfl, fun b => by simp⟩
  | cons e l ih =>
    simp only [List.foldl_cons]
    by_cases hp : e.isPending = true
    · simp only [hp, if_true]
      obtain ⟨w, hw⟩ := lowerUse_eq s e.seg.bankUse
      obtain ⟨v, h1, h2, h3⟩ := ih (s.lowerUse e.seg.bankUse)
      have hx : { s.lowerUse e.seg.bankUse with banks := v } = { s with banks := v } := by rw [hw]
      refine ⟨v, by rw [h1, hx], ?_, fun b => ?_⟩
      · rw [← hx, h2, kept_lowerUse]
      · rw [← hx, h3 b, uses_lowerUse]
        simp only [List.countP_cons, usesBank_pending hp, decide_eq_true_eq]
        omega
    · simp only [hp]
      obtain ⟨v, h1, h2, h3⟩ := ih s
      refine ⟨v, h1, h2, fun b => ?_⟩
      rw [h3 b]
      simp [usesBank, hp]

/-- The window is emptied with the release of the banks. -/
theorem does_emptied : Does s (((s.seq a).window.foldl
    (fun s e => if e.isPending then s.lowerUse e.seg.bankUse else s) s).modSeq a
      fun q => { q with window := [] }) := by
  obtain ⟨v, h1, h2, h3⟩ := lower_all s (s.seq a).window
  rw [h1]
  refine ⟨(kept_modSeq _ a _).trans h2, fun i => ?_⟩
  refine inv_seqUses s a (fun q => { q with window := [] }) i
    ⟨by simp, fun n => by simp [Seq.activeEntry] at n, i.still a⟩
    (fun b => (s.bank b).uses - (s.seq a).window.countP (usesBank b)) rfl rfl rfl
    (fun _ _ => Nat.le_refl _) ?_ rfl h3 fun b => ?_
  · have := (i.window a).1
    simp only [List.length_nil]
    change 0 + coming s a ≤ 4
    omega
  · have := i.uses b
    have := countP_le_pendingUses s a b
    simp only [List.countP_nil]
    omega

theorem does_emptyWindow : Does s (s.emptyWindow a) :=
  (does_emptied s a).trans (does_withdraw _ a)

theorem does_discard (n : Nat) : Does s (s.discard a n).1 :=
  ((does_passRecords s a n).trans (does_markDiscard _ a)).trans (does_emptyWindow _ a)

end

end Sys2Proof.Laws
end

