-- ==== Sys2Proof/Laws/Arbiter.lean ====
section
/-! SUPPORT. The place arbiter and what follows every event (Machine/Arbiter.lean) keep what `Does` says; the
outcome of an event, and the tick. -/

namespace Sys2Proof.Laws

open Sys2Proof.Machine Sys2Proof.Safety

section
variable (s : State)

/-! ### The place arbiter -/

theorem does_grantClaim (c : Claim) : Does s (s.grantClaim c) := by
  unfold State.grantClaim
  have h1 := (does_claims s s.claims.tail).trans
    (does_forEach (State.claimants { s with claims := s.claims.tail } c)
      (fun a s => does_reserve s (.axis a)) _)
  cases c with
  | axis a => exact h1.trans (does_grantAxis _ a)
  | fire e => exact h1.trans (does_grantFire _ e)

theorem does_grantCte : Does s s.grantCte :=
  ((does_reserve s .cte).trans (does_modCtl _ _)).trans (does_cte _ _)

theorem does_serveOnce {t : State} (h : s.serveOnce = some t) : Does s t := by
  unfold State.serveOnce at h
  split at h
  · cases h
  · split at h
    · cases h; exact does_placeFirstOwed s
    · split at h
      · cases h; exact does_grantCte s
      · split at h
        · split at h
          · cases h; exact does_grantClaim s _
          · cases h
        · cases h

theorem does_serveUpTo (n : Nat) : Does s (serveUpTo n s) := by
  induction n generalizing s with
  | zero => exact .refl s
  | succ n ih =>
    unfold serveUpTo
    split
    · exact (does_serveOnce s ‹_›).trans (ih _)
    · exact .refl s

theorem does_serve : Does s s.serve := does_serveUpTo s _

/-! ### The end of a drain and of a fault -/

theorem does_drainEnd : Does s s.drainEnd :=
  does_ite (fun _ => (does_dev s .off).trans (does_setDevice _)) fun _ => .refl s

theorem seq_dropWindow (a b : Axis) :
    (State.dropWindow a s).seq b = if b = a then { s.seq a with window := [] } else s.seq b := by
  simp [State.dropWindow]

theorem motion_dropWindow (a b : Axis) :
    ((State.dropWindow a s).mg b).motion = (s.mg b).motion := by
  simp only [State.dropWindow, State.removeWatchers, allAxes, forEach_cons, forEach_nil,
    State.setWatcher, mg_modMg, mg_modSeq]
  fin_cases b <;> simp

theorem seq_dropAll (b : Axis) :
    (forEach allAxes State.dropWindow s).seq b = { s.seq b with window := [] } := by
  simp only [allAxes, forEach_cons, forEach_nil, seq_dropWindow]
  fin_cases b <;> simp

theorem motion_dropAll (b : Axis) :
    ((forEach allAxes State.dropWindow s).mg b).motion = (s.mg b).motion := by
  simp only [allAxes, forEach_cons, forEach_nil, motion_dropWindow]

theorem kept_dropWindow (a : Axis) : kept (State.dropWindow a s) = kept s :=
  (does_removeWatchers _ a).kept.trans (kept_modSeq s a _)

theorem kept_clearUses : kept s.clearUses = kept s := by
  have h : (fun b => ((s.clearUses.bank b).profile, (s.clearUses.bank b).written))
      = fun b => ((s.bank b).profile, (s.bank b).written) := by
    funext b
    simp [State.bank, State.clearUses, Vector.get_eq_getElem]
  unfold kept
  rw [h]
  rfl

theorem uses_clearUses (b : BankNo) : (s.clearUses.bank b).uses = 0 := by
  simp [State.bank, State.clearUses, Vector.get_eq_getElem]

theorem signals_dropWindow (a : Axis) : (State.dropWindow a s).signals = s.signals := by
  simp [State.dropWindow, State.removeWatchers, allAxes, State.setWatcher]

theorem rdv_dropWindow (a : Axis) : (State.dropWindow a s).rdv = s.rdv := by
  simp [State.dropWindow, State.removeWatchers, allAxes, State.setWatcher]

theorem axes_discardFrozen : s.discardFrozen.axes = (forEach allAxes State.dropWindow s).axes := by
  unfold State.discardFrozen
  generalize forEach allAxes State.dropWindow s = u
  rfl

theorem signals_discardFrozen : s.discardFrozen.signals = s.signals := by
  have h : (forEach allAxes State.dropWindow s).signals = s.signals := by
    simp only [allAxes, forEach_cons, forEach_nil, signals_dropWindow]
  unfold State.discardFrozen
  generalize forEach allAxes State.dropWindow s = u at h ⊢
  exact h

theorem rdv_discardFrozen : s.discardFrozen.rdv = s.rdv := by
  have h : (forEach allAxes State.dropWindow s).rdv = s.rdv := by
    simp only [allAxes, forEach_cons, forEach_nil, rdv_dropWindow]
  unfold State.discardFrozen
  generalize forEach allAxes State.dropWindow s = u at h ⊢
  exact h

theorem uses_discardFrozen (b : BankNo) : (s.discardFrozen.bank b).uses = 0 := by
  unfold State.discardFrozen
  generalize forEach allAxes State.dropWindow s = u
  exact uses_clearUses u b

theorem kept_discardFrozen : kept s.discardFrozen = kept s := by
  have h : kept (forEach allAxes State.dropWindow s) = kept s := by
    simp only [allAxes, forEach_cons, forEach_nil, kept_dropWindow]
  unfold State.discardFrozen
  generalize forEach allAxes State.dropWindow s = u at h ⊢
  exact (kept_clearUses u).trans h

theorem does_discardFrozen : Does s s.discardFrozen := by
  have hs : ∀ a, s.discardFrozen.seq a = { s.seq a with window := [] } := fun a => by
    rw [← seq_dropAll]; simp only [State.seq, State.axis, axes_discardFrozen]
  have hm : ∀ a, (s.discardFrozen.mg a).motion = (s.mg a).motion := fun a => by
    rw [← motion_dropAll s a]; simp only [State.mg, State.axis, axes_discardFrozen]
  have hr : ∀ a, s.discardFrozen.ring a = Ring.reset := fun a => by
    simp [State.discardFrozen, State.ring, Vector.get_eq_getElem]
  refine ⟨kept_discardFrozen s, fun i => ⟨?_, ?_, ?_, fun a => ?_, fun a => ?_, fun a => ?_, fun b => ?_⟩⟩
  · simp [queueOk, State.discardFrozen, Queue.reset, Queue.held]
  · simpa [signalsOk, State.signal, signals_discardFrozen] using i.signals
  · simpa [rdvOk, State.entry, rdv_discardFrozen] using i.rdv
  · rw [hs]; simp [coming, hr, Ring.reset, fetchCount]
  · rw [hs]; intro n; simp [Seq.activeEntry] at n
  · rw [hs, hm]; exact i.still a
  · simp [pendingUses, hs, uses_discardFrozen]

theorem does_faultExit : Does s s.faultExit :=
  does_ite (fun _ => does_discardFrozen s) fun _ => .refl s

/-! ### After an event -/

/-- What follows an event keeps the invariant and everything in `kept`. -/
theorem does_finish : Does s s.finish :=
  (((((((does_serve s).trans (does_judgeBarrier _)).trans (does_cteClaim _)).trans
    (does_serve _)).trans (does_beginFetches _)).trans (does_beginCplWrite _)).trans
    (does_drainEnd _)).trans (does_faultExit _)

theorem does_endEvent (t : State) (h : Does s t) : Does s t.finish := h.trans (does_finish t)

/-- The outcome of an event is always a next state. -/
theorem event_cases (f : State → Option State) :
    (s.event f = .next s ∧ (s.resetHeld = true ∨ f s = none)) ∨
      ∃ t, f s = some t ∧ s.resetHeld = false ∧ s.event f = .next t.finish := by
  unfold State.event
  cases hr : s.resetHeld with
  | true => exact .inl ⟨by simp, .inl rfl⟩
  | false =>
    cases hf : f s with
    | none => exact .inl ⟨by simp, .inr rfl⟩
    | some t => exact .inr ⟨t, rfl, rfl, by simp⟩

/-- An event with an effect that can occur. -/
theorem event_some {f : State → Option State} {t : State} (hr : s.resetHeld = false)
    (hf : f s = some t) : s.event f = .next t.finish := by
  simp [State.event, hr, hf]

/-- An event that cannot occur, or a command that the part ignores. -/
theorem event_none {f : State → Option State} (hf : f s = none) : s.event f = .next s := by
  simp [State.event, hf]

/-- Nothing happens while the RESET line is held. -/
theorem event_held {f : State → Option State} (hr : s.resetHeld = true) : s.event f = .next s := by
  simp [State.event, hr]

/-! ### The tick -/

@[simp] theorem motion_creep (m : MG) : m.creep.motion = m.motion := by
  unfold MG.creep; split <;> rfl

theorem inv_tick (i : Inv s) : Inv s.tick := by
  unfold State.tick
  split
  · exact i
  · have hs : ∀ a, State.seq { s with time := s.time + 1, axes := s.axes.map fun x => { x with mg := x.mg.creep } } a
        = s.seq a := fun a => by simp [State.seq, State.axis, Vector.get_eq_getElem]
    have hm : ∀ a, State.mg { s with time := s.time + 1, axes := s.axes.map fun x => { x with mg := x.mg.creep } } a
        = (s.mg a).creep := fun a => by simp [State.mg, State.axis, Vector.get_eq_getElem]
    refine ⟨i.queue, i.signals, i.rdv, fun a => ?_, fun a => ?_, fun a => ?_, fun b => ?_⟩
    · rw [hs]; exact i.window a
    · rw [hs]; exact i.active a
    · rw [hs, hm, motion_creep]; exact i.still a
    · simp only [pendingUses, hs]; exact i.uses b

end

end Sys2Proof.Laws
end

