-- ==== Sys2Proof/Laws/Effects.lean ====
section
/-! SUPPORT. The effect of each command, before what follows every event, keeps the invariant: the pins and
the clocked blocks, the registers and resets, the transfers, and the commands of the CTL ring. -/

namespace Sys2Proof.Laws

open Sys2Proof.Machine Sys2Proof.Safety

/-- The invariant looks at few fields. -/
theorem inv_same {s t : State} (i : Inv s) (hq : t.queue.held = s.queue.held)
    (hs : t.signals = s.signals) (hr : t.rdv = s.rdv) (hg : ∀ a, coming t a ≤ coming s a)
    (ha : ∀ a, t.seq a = s.seq a) (hm : ∀ a, (t.mg a).motion = (s.mg a).motion)
    (hb : ∀ b, (t.bank b).uses = (s.bank b).uses) : Inv t := by
  refine ⟨by simpa [queueOk, hq] using i.queue, by simpa [signalsOk, State.signal, hs] using i.signals,
    by simpa [rdvOk, State.entry, hr] using i.rdv, fun a => ?_, fun a => ?_, fun a => ?_, fun b => ?_⟩
  · rw [ha]; exact ⟨by have := (i.window a).1; have := hg a; omega, (i.window a).2⟩
  · rw [ha]; exact i.active a
  · rw [ha, hm]; exact i.still a
  · simp only [pendingUses, ha, hb]; exact i.uses b

section
variable (s : State) (a : Axis)

theorem inv_modLine (l : Line) (f : LineState → LineState) (i : Inv s) : Inv (s.modLine l f) :=
  inv_same i rfl rfl rfl (fun _ => Nat.le_refl _) (fun _ => rfl) (fun _ => rfl) fun _ => rfl

theorem inv_modFbm (f : FBM → FBM) (i : Inv s) : Inv (s.modFbm a f) :=
  inv_same i rfl rfl rfl (fun _ => Nat.le_refl _) (fun b => by simp) (fun b => by simp) fun _ => rfl

theorem inv_reachTime (t : Time) (i : Inv s) : Inv (s.reachTime t) := by
  unfold State.reachTime
  split
  · exact inv_same i rfl rfl rfl (fun _ => Nat.le_refl _) (fun _ => rfl) (fun _ => rfl) fun _ => rfl
  · exact i

theorem kept_reachTime_cfg (t : Time) : (s.reachTime t).axes = s.axes := by
  unfold State.reachTime; split <;> rfl

/-! ### The roles of a line -/

theorem does_limitHalt (pos : Bool) : Does s (s.limitHalt a pos) :=
  does_ite (fun _ => does_haltCause s a _ _ _) fun _ => .refl s

theorem does_limitInHome (pos : Bool) (h : HomeState) (b : SegBody) (ha : HasActive s a) :
    Does s (s.limitInHome a pos h b) := by
  unfold State.limitInHome
  simp only
  split
  · exact does_limitHalt s a pos
  · exact does_homeFail s a _
  · exact does_ite (fun _ => .refl s) fun _ =>
      does_ite (fun _ => does_homeDescend s a _ b _ ha) fun _ => does_limitHalt s a pos
  · exact does_ite (fun _ => .refl s) fun _ => does_homeFail s a _
  · exact does_ite (fun _ => .refl s) fun _ => does_limitHalt s a pos

theorem does_setLineBlock (pos v : Bool) : Does s (s.modSeq a fun q => q.setLineBlock pos v) :=
  does_seqKeep s a _ fun q => by unfold Seq.setLineBlock; split <;> exact ⟨rfl, rfl⟩

theorem does_limitEdge (pos : Bool) : Does s (s.limitEdge a pos) := by
  unfold State.limitEdge
  refine Does.trans (does_setLineBlock s a pos true) ?_
  generalize s.modSeq a (fun q => q.setLineBlock pos true) = u
  simp only
  split
  · exact does_limitInHome u a pos _ _ (active_of_homing u a ‹_›)
  · exact does_limitHalt u a pos

theorem does_limitRole (l : Line) (act : Bool) (pos : Bool) :
    Does s (State.limitRole l act a pos s) :=
  does_ite (fun _ => does_ite (fun _ => does_limitEdge s a pos) fun _ => does_setLineBlock s a pos false)
    fun _ => .refl s

theorem does_limitRoles (l : Line) (act : Bool) : Does s (State.limitRoles l act a s) :=
  (does_limitRole s a l act false).trans (does_limitRole _ a l act true)

/-- The limit roles of all axes at one level. -/
theorem does_limitLevel (l : Line) (act : Bool) : Does s (s.limitLevel l act) :=
  does_atOneStep _ _ fun x h s => by
    obtain ⟨a, _, rfl⟩ := List.mem_map.1 h
    exact does_limitRoles s a l act

theorem does_homeRole (l : Line) (act : Bool) : Does s (State.homeRole l act a s) := by
  unfold State.homeRole
  refine does_ite (fun _ => ?_) fun _ => .refl s
  split
  · have ha := active_of_homing s a ‹_›
    split
    · exact does_ite (fun _ => does_homeDescend s a _ _ _ ha) fun _ => .refl s
    · exact does_homeEdge s a _ _ ha
    · exact does_ite (fun _ => does_homeEdge s a _ _ ha) fun _ => .refl s
    · exact .refl s
  · exact .refl s

theorem does_inputRole (l : Line) (act : Bool) : Does s (State.inputRole l act a s) :=
  does_ite (fun _ => does_meet s a) fun _ => .refl s

theorem does_captureRole (l : Line) (act : Bool) (u : UnitNo) : Does s (State.captureRole l act u s) := by
  unfold State.captureRole
  split
  · exact does_ite (fun _ => (does_setCap s u _).trans (does_owe _ _)) fun _ => .refl s
  · exact does_ite (fun _ => does_setCap s u _) fun _ => .refl s
  · exact .refl s
  · exact .refl s

theorem does_stopRole (l : Line) (act : Bool) : Does s (s.stopRole l act) := by
  unfold State.stopRole
  split
  · exact does_ite (fun _ => does_stopAllRequest s _) fun _ => .refl s
  · exact .refl s

/-- What a filtered edge does once the level of its line has changed. -/
theorem inv_filteredEdge (l : Line) (i : Inv s) : Inv (s.filteredEdge l) := by
  unfold State.filteredEdge
  have h := inv_modLine s l (fun x => { x with filtered := (s.line l).raw, pendingSince := none }) i
  refine Does.inv ?_ h
  refine Does.trans ?_ (does_stopRole _ l _)
  refine Does.trans ?_ (does_forEach _ (fun u s => does_captureRole s l _ u) _)
  refine Does.trans ?_ (does_forEach _ (fun a s => does_inputRole s a l _) _)
  refine Does.trans ?_ (does_atOneStep _ _ fun x h s => by
    obtain ⟨a, _, rfl⟩ := List.mem_map.1 h
    exact does_homeRole s a l _)
  exact does_limitLevel _ l _

theorem inv_rawChanged (l : Line) (high : Bool) {t : State} (i : Inv s)
    (h : s.rawChanged l high = some t) : Inv t := by
  unfold State.rawChanged at h
  split at h
  · cases h
  · cases h
    have j := inv_modLine s l (fun x => { x with pin := high }) i
    generalize s.modLine l (fun x => { x with pin := high }) = u at j
    unfold State.filterRaw
    split
    · exact inv_modLine u l _ j
    · split
      · exact inv_filteredEdge u l j
      · exact inv_modLine u l _ j

theorem inv_filterExpired (l : Line) {t : State} (i : Inv s) (h : s.filterExpired l = some t) :
    Inv t := by
  unfold State.filterExpired at h
  split at h
  · rw [← Option.some.inj h]; exact inv_filteredEdge _ l (inv_reachTime s _ i)
  · cases h

theorem inv_encoderChanged (x y : Bool) {t : State} (i : Inv s)
    (h : s.encoderChanged a x y = some t) : Inv t := by
  have j := inv_modFbm s a (fun f => f.decode x y) i
  unfold State.encoderChanged at h
  generalize s.modFbm a (fun f => f.decode x y) = u at j h
  simp only at h
  split at h
  · cases h
  · rw [← Option.some.inj h]
    exact (does_ite (fun _ => does_takeFault u a _ _) fun _ => .refl u).inv j
  · rw [← Option.some.inj h]
    exact (does_testDeviation u a).inv j

/-! ### The timed events -/

theorem does_rangeEnd (pos : Bool) : Does s (s.rangeEnd a pos) :=
  (does_haltCause s a _ _ _).trans (does_modMg _ a _ fun _ _ _ => rfl)

theorem live_of_moving (i : Inv s) (h : (s.mg a).isStill = false) :
    (s.seq a).sq ≠ .halted ∧ (s.seq a).sq ≠ .off := by
  constructor <;> intro hq <;> simp [MG.isStill, i.still a (by simp [hq])] at h

/-- What a step brings its SEQ. -/
theorem does_takeStep (positive homing : Bool) (p : MG × MgEvent) :
    Does s (s.takeStep a positive homing p) := by
  unfold State.takeStep
  simp only
  have h := does_ite
    (p := ((atRangeEnd positive p.1.pos && (homing || !(p.2 == .targetReached))) && p.2 == .targetReached) = true)
    (fun _ => Does.refl s) fun _ => does_takeMgEvent s a p.2
  exact does_ite (fun _ => h.trans (does_rangeEnd _ a positive)) fun _ => h

theorem does_stepped (h : (s.mg a).stepNext = true) : Does s (s.stepped a) := by
  have hm : (s.mg a).isStill = false := by
    unfold MG.stepNext at h; cases hs : (s.mg a).isStill <;> simp_all
  unfold State.stepped
  refine Does.trans ?_ (does_testDeviation _ a)
  have h1 := does_mgLive s a (fun _ => (s.mg a).step.1) fun i => live_of_moving s a i hm
  have h3 := ((h1.trans (does_followPosBlocks _ a)).trans (does_serveWatchers _ a)).trans
    (does_takeStep _ a (s.mg a).positive (s.seq a).homeActive (s.mg a).step)
  exact does_ite (fun _ => h3.trans (does_haltCause _ a _ _ _)) fun _ => h3

theorem does_phaseEnded (h : (s.mg a).phaseEndNext = true) : Does s (s.phaseEnded a) := by
  have hm : (s.mg a).isStill = false := by
    by_contra hs
    have hs : (s.mg a).motion = .still := by simpa [MG.isStill] using hs
    simp [MG.phaseEndNext, MG.phaseEnd, hs] at h
  exact (does_mgLive s a _ fun i => live_of_moving s a i hm).trans (does_takeMgEvent _ a _)

theorem inv_dwellExpired {t : State} (i : Inv s) (h : s.dwellExpired a = some t) : Inv t := by
  unfold State.dwellExpired at h
  split at h
  · cases h
    exact (does_complete _ a afterDwell fun _ => .inr rfl).inv (inv_reachTime s _ i)
  · cases h

theorem inv_holdoffExpired {t : State} (i : Inv s) (h : s.holdoffExpired = some t) : Inv t := by
  unfold State.holdoffExpired at h
  split at h
  · cases h; exact (does_moderator _ _).inv (inv_reachTime s _ i)
  · cases h

/-! ### The fetch completion of an axis ring -/

theorem barrierPass_eq : ∃ c, s.barrierPass a = { s with cte := c } := by
  unfold State.barrierPass
  split
  · exact ⟨_, rfl⟩
  · exact ⟨s.cte, rfl⟩

theorem kept_modRing (r : RingNo) (f : Ring → Ring) : kept (s.modRing r f) = kept s := rfl

theorem does_joinRecord (r : Record) (h : (s.ring (axisRing a)).fetch = .inFlight) :
    Does s (s.joinRecord a r) := by
  unfold State.joinRecord
  generalize he : freshEntry r (s.ring (axisRing a)).seqNo = e
  have hp : e.isPending = true := by subst he; rfl
  suffices hd : Does s ((((s.modRing (axisRing a) fun x => { x with fetch := .idle }.pass 1).barrierPass
      a).raiseUse e.seg.bankUse).modSeq a fun q => { q with window := q.window ++ [e] }) from
    does_ite (fun _ => hd.trans (does_arm _ a)) fun _ => hd
  obtain ⟨c, hc⟩ := barrierPass_eq (s.modRing (axisRing a) fun x => { x with fetch := .idle }.pass 1) a
  obtain ⟨v, hv⟩ := raiseUse_eq
    ((s.modRing (axisRing a) fun x => { x with fetch := .idle }.pass 1).barrierPass a) e.seg.bankUse
  refine ⟨?_, fun i => ?_⟩
  · rw [kept_modSeq, kept_raiseUse, (does_barrierPass _ a).kept, kept_modRing]
  · refine inv_seqUses s a (fun q => { q with window := q.window ++ [e] }) i ⟨?_, ?_, i.still a⟩
      (fun b => (s.bank b).uses + if e.seg.bankUse = some b then 1 else 0) ?_ ?_ ?_ ?_ ?_ ?_ ?_ ?_
    · intro d hd
      cases hw : (s.seq a).window with
      | nil => simp [hw] at hd
      | cons x l =>
        simp only [hw, List.cons_append, List.tail_cons, List.mem_append, List.mem_singleton] at hd
        rcases hd with hd | hd
        · exact (i.window a).2 d (by simp [hw, hd])
        · rw [hd]; exact hp
    · intro n
      refine i.active a fun k => n ?_
      rw [activeEntry_none] at k ⊢
      intro x l hw
      cases hs : (s.seq a).window with
      | nil => simp [hs] at hw; rw [← hw.1]; exact hp
      | cons y l' => simp [hs] at hw; rw [← hw.1]; exact k y l' hs
    · rw [hv, hc]; rfl
    · rw [hv, hc]; rfl
    · rw [hv, hc]; rfl
    · rw [hv, hc]
      intro b hb
      change coming (s.modRing (axisRing a) fun x => { x with fetch := .idle }.pass 1) b ≤ _
      simp [coming, axisRing_inj, hb]
    · rw [hv, hc]
      have h1 := (i.window a).1
      change _ + coming (s.modRing (axisRing a) fun x => { x with fetch := .idle }.pass 1) a ≤ 4
      simp only [coming, h, fetchCount, ring_modRing, if_true, fetch_pass, List.length_append,
        List.length_singleton] at h1 ⊢
      omega
    · rw [hv, hc]; rfl
    · intro b
      have := uses_raiseUse
        ((s.modRing (axisRing a) fun x => { x with fetch := .idle }.pass 1).barrierPass a)
        e.seg.bankUse b
      rw [hc] at this ⊢
      exact this
    · intro b
      simp only [List.countP_append, List.countP_cons, List.countP_nil, usesBank_pending hp,
        decide_eq_true_eq]
      omega

theorem inv_fetchCompleted (r : Record) {t : State} (i : Inv s) (h : s.fetchCompleted a r = some t) :
    Inv t := by
  unfold State.fetchCompleted at h
  split at h
  · cases h
  · cases h; exact (does_modRing s _ _ (by simp [fetchCount])).inv i
  · cases h; exact (does_joinRecord s a r ‹_›).inv i

end

end Sys2Proof.Laws
end

