-- ==== Sys2Proof/Laws/Registers.lean ====
section
/-! SUPPORT. The effects of the writes to the registers, of the resets and of the transfers that end keep
the invariant. -/

namespace Sys2Proof.Laws

open Sys2Proof.Machine Sys2Proof.Safety

/-! ### Resets -/

theorem inv_hardReset (s : State) (held : Bool) : Inv (s.hardReset held) := by
  have hx : ∀ a, ∃ x y, (s.hardReset held).axis a = .reset x y := fun a =>
    ⟨_, _, by simp [State.axis, State.hardReset, State.afterReset, Vector.get_eq_getElem]; rfl⟩
  refine ⟨?_, fun n => ?_, fun e => ?_, fun a => ?_, fun a => ?_, fun a => ?_, fun b => ?_⟩
  · simp [queueOk, State.hardReset, State.afterReset, Queue.reset, Queue.held]
  · simp [State.signal, State.hardReset, State.afterReset, Vector.get_eq_getElem, Signal.reset]
  · simp [entryOk, State.entry, State.hardReset, State.afterReset, Vector.get_eq_getElem, Rdv.reset]
  · obtain ⟨x, y, h⟩ := hx a
    have hr : (s.hardReset held).ring (axisRing a) = .reset := by
      simp [State.ring, State.hardReset, State.afterReset, Vector.get_eq_getElem]
    simp [State.seq, h, AxisState.reset, Machine.Seq.reset, coming, hr, Ring.reset, fetchCount]
  · obtain ⟨x, y, h⟩ := hx a
    simp [State.seq, h, AxisState.reset, Machine.Seq.reset, Seq.activeEntry]
  · obtain ⟨x, y, h⟩ := hx a
    simp [State.mg, h, AxisState.reset, MG.reset]
  · have hw : ∀ a, ((s.hardReset held).seq a).window = [] := fun a => by
      obtain ⟨x, y, h⟩ := hx a
      simp [State.seq, h, AxisState.reset, Machine.Seq.reset]
    have hb : (s.hardReset held).bank b = .reset := by
      simp [State.bank, State.hardReset, State.afterReset, Vector.get_eq_getElem]
    simp [pendingUses, hw, hb, Bank.reset]

section
variable (s : State) (a : Axis)

theorem does_recomputeBlocks : Does s (State.recomputeBlocks a s) :=
  (does_recomputeLineBlocks s a).trans (does_recomputePosBlocks _ a)

theorem inv_softReset : Inv s.softReset := by
  unfold State.softReset
  refine (does_forEach allAxes (fun a s => does_recomputeBlocks s a) _).inv ?_
  simp only
  generalize hu : ({ s.clearUses with
    dev := .off, enable := false, faultCode := .none, faultSource := .none, postReg := 0
    rings := Vector.replicate 5 .reset, reportAddr := 0, cpl := .reset, queue := .reset, owed := []
    claims := [], moderator := s.moderator.clear, cte := .idle
    axes := s.axes.map AxisState.softReset
    signals := Vector.replicate 16 .reset, overflowMask := 0, overflowTime := 0
    rdv := Vector.replicate 8 .reset, caps := Vector.replicate 4 .disarmed, outs := 0 } : State) = u
  have hx : ∀ a, u.axis a = (s.axis a).softReset := fun a => by
    rw [← hu]; simp [State.axis, Vector.get_eq_getElem]
  have hw : ∀ a, (u.seq a).window = [] := fun a => by
    simp [State.seq, hx, AxisState.softReset, Seq.softReset]
  refine ⟨?_, fun n => ?_, fun e => ?_, fun a => ?_, fun a => ?_, fun a => ?_, fun b => ?_⟩
  · rw [← hu]; simp [queueOk, Queue.reset, Queue.held]
  · rw [← hu]; simp [State.signal, Vector.get_eq_getElem, Signal.reset]
  · rw [← hu]; simp [entryOk, State.entry, Vector.get_eq_getElem, Rdv.reset]
  · have hr : u.ring (axisRing a) = .reset := by rw [← hu]; simp [State.ring, Vector.get_eq_getElem]
    simp [hw, coming, hr, Ring.reset, fetchCount]
  · simp [Seq.activeEntry, hw]
  · simp [State.mg, hx, AxisState.softReset, MG.softReset, MG.hardStop, MG.stand]
  · have hb : (u.bank b).uses = 0 := by rw [← hu]; exact uses_clearUses s b
    simp [pendingUses, hw, hb]

/-! ### CTRL -/

theorem inv_enableOn (i : Inv s) : Inv s.enableOn := by
  unfold State.enableOn
  simp only
  split
  · exact inv_same i rfl rfl rfl (fun _ => Nat.le_refl _) (fun _ => rfl) (fun _ => rfl) fun _ => rfl
  · exact inv_same i rfl rfl rfl (fun _ => Nat.le_refl _) (fun _ => rfl) (fun _ => rfl) fun _ => rfl

theorem inv_closeEntries (i : Inv s) : Inv s.closeEntries := by
  refine ⟨i.queue, i.signals, fun e => ?_, i.window, i.active, i.still, i.uses⟩
  simp [entryOk, State.entry, State.closeEntries, Vector.get_eq_getElem]

theorem does_drainWindow : Does s (State.drainWindow a s) :=
  does_ite (fun _ => .refl s) fun _ => (does_discard s a _).trans (does_owe _ _)

theorem does_drainCte : Does s s.drainCte := by
  unfold State.drainCte
  split
  · exact does_cte s _
  · exact does_endBarrier s _ _ _
  · exact .refl s
  · exact .refl s

theorem inv_drainEvent (i : Inv s) : Inv s.drainEvent := by
  unfold State.drainEvent
  have h : Inv ({ s with dev := .drain, enable := false } : State).closeEntries :=
    inv_closeEntries _ (inv_same i rfl rfl rfl (fun _ => Nat.le_refl _) (fun _ => rfl) (fun _ => rfl)
      fun _ => rfl)
  generalize ({ s with dev := .drain, enable := false } : State).closeEntries = u at h
  have h1 := does_forEach allAxes (fun a s => does_haltCause s a .drain .soft true) u
  have h2 := (h1.trans (does_forEach allAxes (fun a s => does_drainWindow s a) _)).trans (does_drainCte _)
  exact (h2.trans (does_caps _ _)).inv h

theorem does_ctrlStop (w : Word) : Does s (s.ctrlStop w) :=
  does_ite (fun _ => does_stopAllRequest s _) fun _ =>
    does_ite (fun _ => does_stopAllRequest s _) fun _ => .refl s

theorem inv_ctrlEnableField (on : Bool) (i : Inv s) : Inv (s.ctrlEnableField on) := by
  unfold State.ctrlEnableField
  split
  · exact inv_enableOn s i
  · exact i
  · exact inv_same i rfl rfl rfl (fun _ => Nat.le_refl _) (fun _ => rfl) (fun _ => rfl) fun _ => rfl
  · exact i
  · exact inv_drainEvent s i
  · exact i
  · exact i
  · exact inv_same i rfl rfl rfl (fun _ => Nat.le_refl _) (fun _ => rfl) (fun _ => rfl) fun _ => rfl

theorem inv_ctrlWrite (w : Word) (i : Inv s) : Inv (s.ctrlWrite w) := by
  unfold State.ctrlWrite
  split
  · exact inv_softReset s
  · exact inv_ctrlEnableField _ _ ((does_ctrlStop s w).inv i)

/-! ### The other registers -/

theorem inv_setupLoWrite (w : Word) {t : State} (i : Inv s) (h : s.setupLoWrite w = some t) :
    Inv t := by
  unfold State.setupLoWrite at h
  split at h
  · rw [← Option.some.inj h]
    exact inv_same i rfl rfl rfl (fun _ => Nat.le_refl _) (fun _ => rfl) (fun _ => rfl) fun _ => rfl
  · cases h

theorem inv_setupHiWrite (w : Word) {t : State} (i : Inv s) (h : s.setupHiWrite w = some t) :
    Inv t := by
  unfold State.setupHiWrite at h
  split at h
  · rw [← Option.some.inj h]
    exact inv_same i rfl rfl rfl (fun _ => Nat.le_refl _) (fun _ => rfl) (fun _ => rfl) fun _ => rfl
  · cases h

theorem inv_postWrite (w : Word) (i : Inv s) : Inv (s.postWrite w) := by
  have j : Inv { s with postReg := w &&& postBits } :=
    inv_same i rfl rfl rfl (fun _ => Nat.le_refl _) (fun _ => rfl) (fun _ => rfl) fun _ => rfl
  unfold State.postWrite
  simp only
  split
  · generalize ({ s with postReg := w &&& postBits } : State) = u at j
    unfold State.judgePost
    split
    · simp only
      split
      · exact (does_modRing u _ (fun x => { x with prod := postIndex w }) (Nat.le_refl _)).inv j
      · exact inv_same j rfl rfl rfl (fun _ => Nat.le_refl _) (fun _ => rfl) (fun _ => rfl) fun _ => rfl
    · exact inv_same j rfl rfl rfl (fun _ => Nat.le_refl _) (fun _ => rfl) (fun _ => rfl) fun _ => rfl
  · exact j

theorem inv_cackWrite (w : Word) {t : State} (i : Inv s) (h : s.cackWrite w = some t) : Inv t := by
  unfold State.cackWrite at h
  split at h
  · rw [← Option.some.inj h]; exact (does_cpl s _).inv i
  · cases h

theorem inv_intsWrite (w : Word) {t : State} (i : Inv s) (h : s.intsWrite w = some t) : Inv t := by
  unfold State.intsWrite at h
  split at h
  · rw [← Option.some.inj h]; exact (does_moderator s _).inv i
  · cases h

theorem inv_writeReg (o w : Word) {t : State} (i : Inv s) (h : s.writeReg o w = some t) : Inv t := by
  unfold State.writeReg at h
  split at h
  · rw [← Option.some.inj h]; exact inv_ctrlWrite s w i
  · exact inv_setupLoWrite s w i h
  · exact inv_setupHiWrite s w i h
  · rw [← Option.some.inj h]; exact inv_postWrite s w i
  · exact inv_cackWrite s w i h
  · exact inv_intsWrite s w i h
  · cases h

/-! ### Transfers -/

theorem fetch_load (d : RingDesc) : d.load.fetch = .idle := by
  unfold RingDesc.load; rw [fetch_dueReport]

theorem inv_loadSetup (x : Setup) (i : Inv s) : Inv (s.loadSetup x) := by
  have j : Inv { s with queue := .reset } :=
    (does_queue s .reset fun _ => by simp [Queue.reset, Queue.held]).inv i
  refine inv_same j rfl rfl rfl (fun a => ?_) (fun _ => rfl) (fun _ => rfl) fun _ => rfl
  have h : ∀ d : RingDesc, fetchCount d.load.fetch = 0 := fun d => by rw [fetch_load]; rfl
  fin_cases a <;> simp [coming, State.ring, State.loadSetup, axisRing, Vector.get_eq_getElem, h]

theorem does_entryStop : Does s s.entryStop :=
  does_ite (fun _ => (does_breakCommon s _).trans (does_forEach _ (fun a s =>
    does_ite (fun _ => does_haltCause s a _ _ _) fun _ => .refl s) _)) fun _ => .refl s

theorem inv_enterRun (x : Setup) (i : Inv s) : Inv (s.enterRun x) :=
  ((does_entryStop _).trans (does_forEach _ (fun a s => does_testDeviation s a) _)).inv
    (inv_loadSetup s x i)

theorem inv_setupRead (b : SetupBlock) {t : State} (i : Inv s) (h : s.setupRead b = some t) :
    Inv t := by
  unfold State.setupRead at h
  split at h
  · cases h
  · split at h
    · rw [← Option.some.inj h]; exact (does_dev s _).inv i
    · split at h
      · rw [← Option.some.inj h]
        exact inv_same i rfl rfl rfl (fun _ => Nat.le_refl _) (fun _ => rfl) (fun _ => rfl) fun _ => rfl
      · rw [← Option.some.inj h]; exact inv_enterRun s _ i

theorem does_completeReport (r : RingNo) : Does s (s.modRing r Ring.completeReport) :=
  does_modRing s r _ (by unfold Ring.completeReport; split <;> exact Nat.le_refl _)

theorem held_freeze (q : Queue) (f : Bool) : (q.freeze f).held = q.held := by
  unfold Queue.freeze
  split
  · split
    · rfl
    · rename_i h _; simp [Queue.held, h]; omega
  · rfl

theorem inv_busFault (x : Transfer) (i : Inv s) : Inv (s.busFault x) := by
  unfold State.busFault
  refine ((does_haltAll _ .bus .soft).trans (does_setDevice _)).inv ?_
  refine inv_same i (held_freeze _ _) rfl rfl (fun a => ?_) (fun _ => rfl) (fun _ => rfl) fun _ => rfl
  simp [coming, State.ring, State.recordFault, Vector.get_eq_getElem, Ring.abandon, fetchCount]

end

end Sys2Proof.Laws
end

