-- ==== Sys2Proof/Laws/Commands.lean ====
section
/-! SUPPORT. The effects of the commands of the CTL ring keep the invariant; the outcomes of a command by
what can be taken. -/

namespace Sys2Proof.Laws

open Sys2Proof.Machine Sys2Proof.Safety

section
variable (s : State)

theorem inv_modAxisCfg (a : Axis) (c : AxisConfig) (i : Inv s) :
    Inv (s.modAxis a fun y => { y with cfg := c }) := by
  refine inv_same i rfl rfl rfl (fun _ => Nat.le_refl _) (fun b => ?_) (fun b => ?_) fun _ => rfl
  · rw [seq_modAxis]; split
    · subst b; rfl
    · rfl
  · rw [mg_modAxis]; split
    · subst b; rfl
    · rfl

theorem does_takeCtl : Does s s.takeCtl := does_modCtl s _

/-- A command that ends at its execution. -/
theorem inv_runCommand (r : Record) (f : State → State × Answer)
    (h : Inv s.takeCtl → Inv (f s.takeCtl).1) (i : Inv s) : Inv (s.runCommand r f) :=
  ((does_serve _).trans (does_endCommand _ _ _ _ _)).inv (h ((does_takeCtl s).inv i))

/-- A record's take in full: not taken, BAD_COMMAND, the row's own run, or the record of another row. -/
theorem takeRecord_cases (k : Byte) (r : Record) (run : State → State) :
    s.takeRecord k r run = none ∨ s.takeRecord k r run = some (s.badCommand r) ∨
      (s.takeRecord k r run = some (run s) ∧ s.ctlReady = true ∧ kindByte r = k) := by
  unfold State.takeRecord
  cases s.ctlReady <;> cases namesCommand r <;> by_cases h : kindByte r = k <;> simp [h]

/-- A record of the row's own kind is taken by the row. -/
theorem takeRecord_own {k : Byte} {r : Record} (run : State → State) (h : s.ctlReady = true)
    (hk : kindByte r = k) (hn : namesCommand r = true) : s.takeRecord k r run = some (run s) := by
  simp [State.takeRecord, h, hk, hn]

/-- A record whose kind names no command. -/
theorem takeRecord_unnamed {r : Record} (k : Byte) (run : State → State) (h : s.ctlReady = true)
    (hn : namesCommand r = false) : s.takeRecord k r run = some (s.badCommand r) := by
  simp [State.takeRecord, h, hn]

/-- A record of another command is not taken. -/
theorem takeRecord_other {k : Byte} {r : Record} (run : State → State) (hk : kindByte r ≠ k)
    (hn : namesCommand r = true) : s.takeRecord k r run = none := by
  simp [State.takeRecord, hk, hn]

/-- The outcome of a CTL record of the row's kind where it can be taken. -/
theorem ctlEvent_takes {k : Byte} (r : Record) (f : State → State × Answer) (h : takesKind s r k)
    (hn : namesCommand r = true) :
    s.ctlEvent k r f = .next (commandEnd s (f s.takeCtl).1 r (f s.takeCtl).2) := by
  unfold State.ctlEvent
  rw [event_some s h.1.1 (takeRecord_own s _ h.1.2 h.2 hn)]
  rfl

/-- The outcome of a CTL record whose kind names no command. -/
theorem ctlEvent_unnamed (k : Byte) (r : Record) (f : State → State × Answer) (h : takes s)
    (hn : namesCommand r = false) :
    s.ctlEvent k r f = .next (commandEnd s s.takeCtl r ⟨.badCommand, 0, 0, 0⟩) := by
  unfold State.ctlEvent
  rw [event_some s h.1 (takeRecord_unnamed s k _ h.2 hn)]
  rfl

/-- The outcome of a CTL record where it cannot be taken. -/
theorem ctlEvent_not (k : Byte) (r : Record) (f : State → State × Answer) (h : ¬takes s) :
    s.ctlEvent k r f = .next s := by
  unfold State.ctlEvent
  by_cases hr : s.resetHeld = true
  · exact event_held s hr
  · have : s.ctlReady = false := by
      by_contra n
      exact h ⟨by simpa using hr, by simpa using n⟩
    exact event_none s (by simp [State.takeRecord, this])

/-! ### CONFIG_AXIS -/

theorem does_refreshAxis (a : Axis) : Does s (s.refreshAxis a) := by
  unfold State.refreshAxis State.resetFeedback
  have h := (does_rebase s a).trans
    (does_modFbm _ a (fun f => { f with enaDropped := false }) fun _ => ⟨rfl, rfl, rfl⟩)
  exact (h.trans (does_recomputeLineBlocks _ a)).trans (does_recomputePosBlocks _ a)

/-- An axis whose motion has come to rest, outside SQ_RUN. -/
theorem settled_still (a : Axis) (i : Inv s) (h : s.settled a = true) :
    (s.mg a).motion = .still ∧ (s.seq a).sq ≠ .run ∧ (s.seq a).sq ≠ .wait .cond := by
  unfold State.settled at h
  split at h
  · rename_i hq; exact ⟨i.still a (.inr hq), by simp [hq], by simp [hq]⟩
  · rename_i hq; exact ⟨i.still a (.inl hq), by simp [hq], by simp [hq]⟩
  · rename_i hq; exact ⟨by simpa [MG.isStill] using h, by simp [hq], by simp [hq]⟩
  · cases h

theorem inv_configEnabled (a : Axis) (c : AxisConfig) (i : Inv s) :
    Inv (s.configEnabled a c).1 := by
  unfold State.configEnabled
  simp only
  have j := inv_modAxisCfg s a c i
  have hs : (s.modAxis a fun y => { y with cfg := c }).seq a = s.seq a := by simp; rfl
  generalize s.modAxis a (fun y => { y with cfg := c }) = u at j hs
  have k : Does u (if ((s.seq a).sq == .off) = true then
      u.modSeq a fun q => { q with sq := .empty, reason := none } else u) := by
    refine does_ite (fun p => ?_) fun _ => .refl u
    refine does_modSeq u a _ (Nat.le_refl _) (fun i => ⟨(i.window a).2, fun n => ?_, by simp⟩)
      fun _ _ => rfl
    have := noActive_of_sq (a := a) i (by rw [hs]; simp at p; simp [p])
    exact absurd this n
  have l := k.trans (does_refreshAxis _ a)
  exact (does_ite (fun _ => l.trans (does_haltCause _ a _ _ _)) fun _ => l).inv j

/-! ### What the discard of a window leaves -/

theorem mg_meet (b c : Axis) : (s.meet b).mg c = s.mg c := by
  unfold State.meet
  split
  · simp [State.claimStart, State.addClaim, State.setProgress, State.setSq, State.mg, State.modSeq,
      State.axis, State.modAxis, setAt_get]
    split <;> simp_all
  · rfl

theorem window_meet (b c : Axis) (h : (s.seq c).window = []) : ((s.meet b).seq c).window = [] := by
  unfold State.meet
  split
  · have : ((s.claimStart b).seq c) =
        ((s.setProgress b .waitStart).setSq b (.wait .place)).seq c := rfl
    rw [this]
    simp only [State.setProgress, State.setSq, seq_modSeq]
    split
    · subst c; simp [Seq.setHead, h]
    · exact h
  · exact h

/-- The window of an axis is empty and the motion states are those of `s`. -/
structure Emptied (s : State) (a : Axis) (t : State) : Prop where
  window : (t.seq a).window = []
  motion : ∀ b, (t.mg b).motion = (s.mg b).motion

theorem emptied_judgeHead (a : Axis) (n : SignalNo) (t : State) (h : Emptied s a t) :
    Emptied s a (t.judgeHead n) := by
  unfold State.judgeHead
  split
  · split
    · exact ⟨window_meet t _ a h.window, fun b => by rw [mg_meet]; exact h.motion b⟩
    · exact h
  · exact h

theorem emptied_leaveList (a b : Axis) (n : SignalNo) (t : State) (h : Emptied s a t) :
    Emptied s a (State.leaveList b n t) := by
  unfold State.leaveList
  split
  · have k : Emptied s a (t.modSignal n fun x => { x with waiters := x.waiters.filter (· != b) }) :=
      ⟨h.window, h.motion⟩
    simp only
    split
    · exact emptied_judgeHead s a n _ k
    · exact k
  · exact h

theorem emptied_withdraw (a : Axis) (t : State) (h : Emptied s a t) : Emptied s a (t.withdraw a) := by
  have h1 : Emptied s a ((t.dropClaim (.axis a)).leaveWaiters a) :=
    forEach_keeps (P := Emptied s a) (fun n t => emptied_leaveList s a a n t) _ _
      ⟨h.window, h.motion⟩
  have h2 : Emptied s a (((t.dropClaim (.axis a)).leaveWaiters a).removeWatchers a) := by
    generalize (t.dropClaim (.axis a)).leaveWaiters a = u at h1
    refine forEach_keeps (P := Emptied s a) (fun w v k => ⟨?_, fun b => ?_⟩) allAxes u h1
    · rw [seq_setWatcher]; exact k.window
    · simp only [State.setWatcher, mg_modMg]
      split
      · subst b; exact k.motion w
      · exact k.motion b
  unfold State.withdraw
  generalize ((t.dropClaim (.axis a)).leaveWaiters a).removeWatchers a = u at h2
  refine ⟨?_, fun b => ?_⟩
  · simp [Seq.disarm, h2.window]
  · rw [mg_modSeq]; exact h2.motion b

theorem axes_barrierPasses (a : Axis) (n : Nat) : (barrierPasses n a s).axes = s.axes := by
  induction n generalizing s with
  | zero => rfl
  | succ n ih =>
    obtain ⟨c, hc⟩ := barrierPass_eq s a
    unfold barrierPasses
    rw [ih, hc]

/-- A discarded window is empty, and no motion state has changed. -/
theorem emptied_discard (a : Axis) (n : Nat) : Emptied s a (s.discard a n).1 := by
  unfold State.discard State.emptyWindow
  have hx : ((s.passRecords a n).markDiscard a).axes = s.axes := axes_barrierPasses _ a n
  generalize (s.passRecords a n).markDiscard a = u at hx
  simp only
  obtain ⟨v, h1, _, _⟩ := lower_all u (u.seq a).window
  rw [h1]
  refine emptied_withdraw s a _ ⟨by simp, fun b => ?_⟩
  rw [mg_modSeq]
  simp [State.mg, State.axis, hx]

/-! ### CONFIG_AXIS with enabled = no -/

theorem inv_disableAxis (a : Axis) (i : Inv s) (hw : (s.seq a).window = [])
    (hm : (s.mg a).motion = .still) : Inv (s.disableAxis a) := by
  unfold State.disableAxis
  simp only
  refine (does_foldl _ (fun s b => does_haltCause s b .group .soft false) _).inv ?_
  refine (does_breakFor _ a).1.inv ?_
  refine (does_modSeq s a (fun q => { q with sq := .off, reason := none }) (Nat.le_refl _)
    (fun i => ⟨(i.window a).2, fun n => ?_, fun _ => hm⟩) fun _ _ => rfl).inv i
  exact absurd (noActive_of_empty (s := s) hw) n

theorem inv_configDisabled (a : Axis) (c : AxisConfig) (i : Inv s) (h : s.settled a = true) :
    Inv (s.configDisabled a c).1 := by
  unfold State.configDisabled
  simp only
  have j := inv_modAxisCfg s a c i
  have hm : ((s.modAxis a fun y => { y with cfg := c }).mg a).motion = .still := by
    rw [mg_modAxis, if_pos rfl]; exact (settled_still s a i h).1
  generalize s.modAxis a (fun y => { y with cfg := c }) = u at j hm
  have e := emptied_discard u a (s.inFlight a)
  refine (does_refreshAxis _ a).inv (inv_disableAxis _ a ((does_discard u a _).inv j) e.window ?_)
  rw [e.motion a, hm]

theorem inv_configAxis (x : Axis × AxisConfig) (i : Inv s) : Inv (configAxis x s).1 := by
  unfold configAxis
  split
  · exact i
  · rename_i h
    split
    · exact i
    · split
      · exact inv_configEnabled s x.1 x.2 i
      · exact inv_configDisabled s x.1 x.2 i (by simpa using h)

/-! ### The other commands -/

theorem inv_configLine (x : LineArgs) (i : Inv s) : Inv (configLine x s).1 := by
  unfold configLine
  simp only
  have j := inv_modLine s x.line (fun _ => (s.line x.line).configure x) i
  generalize s.modLine x.line (fun _ => (s.line x.line).configure x) = u at j
  refine Does.inv ?_ j
  refine Does.trans ?_ (does_stopRole _ _ _)
  exact does_ite (fun _ => does_limitLevel u _ _) fun _ => .refl u

theorem does_setPositionCommand (x : Axis × Int) : Does s (setPosition x s).1 := by
  unfold setPosition
  split
  · exact does_setPosition s x.1 x.2
  · exact .refl s

theorem does_setOutputs (o : OutAction) : Does s (setOutputs o s).1 := does_applyOut s o

theorem inv_runBarrier (r : Record) (m : BitVec 4) (i : Inv s) : Inv (s.runBarrier r m) := by
  unfold State.runBarrier
  have j := (does_takeCtl s).inv i
  simp only
  split
  · exact (does_endBarrier _ _ _ _).inv j
  · exact (does_cte _ _).inv j

theorem inv_writeBank (x : BankNo × Profile) (i : Inv s) : Inv (writeBank x s).1 := by
  unfold writeBank
  simp only
  split
  · exact i
  · refine inv_same i rfl rfl rfl (fun _ => Nat.le_refl _) (fun _ => rfl) (fun _ => rfl) fun b => ?_
    rw [bank_modBank]
    split
    · subst b; rfl
    · rfl

theorem does_postSignalCommand (x : SignalNo × Nat) : Does s (postSignal x s).1 :=
  does_postSignal s x.1 x.2

theorem does_clearSignal (n : SignalNo) : Does s (clearSignal n s).1 :=
  does_modSignal s n (fun x => { x with count := 0 }) fun _ => Nat.zero_le _

theorem does_openRendezvous (x : EntryNo × BitVec 4) : Does s (openRendezvous x s).1 := by
  unfold openRendezvous
  simp only
  split
  · exact does_modEntry s x.1 (fun _ => ⟨.opened, x.2, 0, 0, 0⟩) fun _ =>
      ⟨by simp, fun n => absurd rfl n, fun c => by cases c⟩
  · exact .refl s

theorem does_closeRendezvous (e : EntryNo) : Does s (closeRendezvous e s).1 := by
  unfold closeRendezvous
  simp only
  split
  · exact .refl s
  · exact does_ite (fun _ => .refl s) fun _ =>
      does_modEntry s e (fun r => { r with state := .closed, members := 0, arrived := 0 }) fun _ =>
        ⟨by simp, fun _ => rfl, fun _ => rfl⟩

theorem does_halt (x : Axis × StopKind) : Does s (halt x s).1 := does_haltCause s _ _ _ _

theorem does_resumeAxis (a : Axis) : Does s (s.resumeAxis a) := by
  unfold State.resumeAxis
  have h := does_seqKeep s a (fun q => { q with reason := none }) fun _ => ⟨rfl, rfl⟩
  exact h.trans (does_modFbm _ a (fun f => { f with tripped := false, enaDropped := false })
    fun _ => ⟨rfl, rfl, rfl⟩)

theorem does_resumeKeep (a : Axis) : Does s (s.resumeKeep a) :=
  does_ite (fun p => does_setSq_noActive s a .empty
    (fun _ => noActive_of_empty (by simpa using p)) (by simp)) fun _ => does_arm s a

theorem does_resumeFlush (a : Axis) : Does s (s.resumeFlush a).1 := by
  unfold State.resumeFlush
  have e := emptied_discard s a (s.ring (axisRing a)).available
  have d := does_discard s a (s.ring (axisRing a)).available
  generalize s.discard a (s.ring (axisRing a)).available = p at e d
  exact d.trans (does_setSq_noActive p.1 a .empty (fun _ => noActive_of_empty e.window) (by simp))

theorem does_afterResume (a : Axis) : Does s (s.afterResume a) :=
  (does_serve s).trans (does_testDeviation _ a)

theorem does_resumed (a : Axis) (flush : Bool) : Does s (s.resumed a flush).1 := by
  unfold State.resumed
  have f := (does_resumeAxis s a).trans (does_resumeFlush _ a)
  have k := (does_resumeAxis s a).trans (does_resumeKeep _ a)
  generalize (s.resumeAxis a).resumeFlush a = p at f
  generalize (s.resumeAxis a).resumeKeep a = q at k
  simp only
  split
  · have := f.trans (does_afterResume p.1 a)
    generalize p.1.afterResume a = u at this
    exact this
  · have := k.trans (does_afterResume q a)
    generalize q.afterResume a = u at this
    exact this

theorem does_resume (x : Axis × Bool) : Does s (resume x s).1 := by
  unfold resume
  simp only
  split
  · exact .refl s
  · split
    · exact .refl s
    · split
      · exact .refl s
      · exact does_resumed s x.1 x.2

theorem does_armCapture (x : UnitNo × CapConfig) : Does s (armCapture x s).1 := by
  unfold armCapture
  simp only
  split
  · exact .refl s
  · split
    · exact .refl s
    · exact does_setCap s x.1 _

theorem does_disarmCapture (u : UnitNo) : Does s (disarmCapture u s).1 := by
  unfold disarmCapture
  simp only
  split
  · exact .refl s
  · exact does_setCap s u _
  · exact (does_owed s _).trans (does_setCap _ u _)
  · exact (does_owed s _).trans (does_setCap _ u _)

end

end Sys2Proof.Laws
end

