-- ==== Sys2Proof/Tests/Slice0.lean ====
section
/-! SUPPORT. Small tests, each about one step, with the values of the manual's examples and tables; the
ill-formed command that each check of WellFormed refuses; and for every obligation with hypotheses a
state and operands that meet them. -/

set_option Elab.async false

namespace Sys2Proof.Tests

open Sys2Proof.Machine Sys2Proof.Safety

/-! ### Helpers -/

/-- A CTL record of a kind with tag 7 and its argument bytes from offset 4 on. -/
def cmd (kind : Byte) (args : List Byte) : Record := ofBytes ([kind, 0, 7, 0] ++ args)

/-- The state after one step with a command at the front of the queue. -/
def run (c : Instr) (s : State) : State :=
  match step { s with pending := [c] } with
  | .next t => t
  | .fault f => nomatch f
  | .refused _ => s

/-- DS_RUN with rings and CPL of 16 slots, nothing posted. -/
def idle : State :=
  { State.reset with
    dev := .run, enable := true, rings := Vector.replicate 5 ⟨0x1000, 16, 0, 0, 0, .idle, .idle⟩
    cpl := ⟨0x8000, 16, 0, 0⟩ }

/-- The configuration of section 5.11: stop_decel 100,000 and vmax 20,000. -/
def config : AxisConfig :=
  { AxisConfig.reset with enabled := true, stopDecel := 100000, vmax := 20000 }

/-- An axis of a state enabled with a configuration, SQ_EMPTY. -/
def enabled (a : Axis) (c : AxisConfig) (s : State) : State :=
  s.modAxis a fun x => { x with cfg := c, seq := { x.seq with sq := .empty } }

/-- Axis A0 enabled. -/
def one : State := enabled 0 config idle

/-- Bank 1 of section 5.11 written. -/
def withBank (s : State) : State := s.modBank 1 fun _ => ⟨⟨50000, 50000, 0, 0⟩, true, 0⟩

/-- The fetch of a CTL record is in flight, with the place of its CMD_DONE reserved (R136). -/
def taking (s : State) : State :=
  { s.modRing ctl fun r => { r with prod := 1, fetch := .inFlight } with
    cte := .fetch, queue := { s.queue with reserved := s.queue.reserved ++ [.cte] } }

/-- The fetch of a record of A0 is in flight. -/
def fetching (s : State) : State := s.modRing 0 fun r => { r with prod := 1, fetch := .inFlight }

/-- Status, answer byte and answer words of the record being written. -/
def answer (s : State) : Option (Byte × Byte × Word × Word) :=
  s.queue.writing.map fun c => (c.status, c.second, c.pos, c.aux)

/-- A fields list for a segment: no post and no output action. -/
def body (w : Work) (bank : BankNo) (st : Start) : SegBody := ⟨w, bank, st, none, ⟨0, 0⟩, ⟨0, 0⟩⟩

/-- A segment as the window holds it. -/
def entry (b : SegBody) (st : EntryState) : Entry := ⟨⟨601, false, b.bankUse, some b⟩, 7, st⟩

/-- A0 with a window, in a sequencer state. -/
def window (q : SqState) (w : List Entry) (s : State) : State :=
  s.modSeq 0 fun x => { x with sq := q, window := w }

/-- The MG of A0 cruises in a direction at a speed toward a goal, with a profile of bank 1. -/
def moving (up : Bool) (v : Nat) (g : Goal) (s : State) : State :=
  s.modMg 0 fun m => { m with motion := .cruise, positive := up, speedSq := (v * v : Nat), goal := g
                              cruise := v, profile := ⟨50000, 50000, 0, 0⟩, rate := 50000 }

/-- A0 runs its MOVE of section 5.11 at 10,000 toward 20,000, with its place reserved. -/
def tracking : State :=
  { moving true 10000 (.position 20000)
      (window .run [entry (body (.moveAbs 20000 10000) 1 .afterPrevious) (.active none)] (withBank one)) with
    queue := ⟨[.axis 0], [], none⟩ }

/-! ### WellFormed refuses -/

theorem test_wf_softReset : (Instr.softReset 0x1).wf = false := by decide
theorem test_wf_enableSet : (Instr.enableSet 0x3).wf = false ∧ (Instr.enableSet 0x4).wf = false := by decide
theorem test_wf_enableClear : (Instr.enableClear 0x1).wf = false ∧ (Instr.enableClear 0x2).wf = false := by
  decide
theorem test_wf_stopAllSoft : (Instr.stopAllSoft 0x1).wf = false ∧ (Instr.stopAllSoft 0xC).wf = false ∧
    (Instr.stopAllSoft 0x6).wf = false := by decide
theorem test_wf_stopAllHard : (Instr.stopAllHard 0x5).wf = false ∧ (Instr.stopAllHard 0xA).wf = false := by
  decide
theorem test_wf_intsAcknowledge : (Instr.intsAcknowledge 0x800).wf = false := by decide
theorem test_wf_registerWrite : (Instr.registerWrite 0x14 0).wf = false := by decide
theorem test_wf_kinds :
    (Instr.configAxis (cmd 2 [])).wf = false ∧ (Instr.configLine (cmd 1 [])).wf = false ∧
    (Instr.setPosition (cmd 4 [])).wf = false ∧ (Instr.setOutputs (cmd 3 [])).wf = false ∧
    (Instr.barrier (cmd 6 [])).wf = false ∧ (Instr.queryAxis (cmd 7 [])).wf = false ∧
    (Instr.queryLines (cmd 6 [])).wf = false ∧ (Instr.writeBank (cmd 9 [])).wf = false ∧
    (Instr.postSignal (cmd 10 [])).wf = false ∧ (Instr.clearSignal (cmd 9 [])).wf = false ∧
    (Instr.openRendezvous (cmd 12 [])).wf = false ∧ (Instr.closeRendezvous (cmd 11 [])).wf = false ∧
    (Instr.halt (cmd 14 [])).wf = false ∧ (Instr.resume (cmd 13 [])).wf = false ∧
    (Instr.armCapture (cmd 16 [])).wf = false ∧ (Instr.disarmCapture (cmd 15 [])).wf = false ∧
    (Instr.unknownCommandKind (cmd 16 [])).wf = false := by decide +kernel
theorem test_wf_accepts :
    (Instr.unknownCommandKind (cmd 17 [])).wf = true ∧ (Instr.unknownCommandKind (cmd 0 [])).wf = true ∧
    (Instr.stopAllHard 0xD).wf = true ∧ (Instr.registerWrite 0x20 5).wf = true := by decide +kernel

/-! ### Records, byte by byte (sections 11.1 and 11.3) -/

/-- MOVE_ABS to 20,000 at 10,000, bank 1, tag 601, AFTER_PREVIOUS, NOTIFY (section 5.11). -/
theorem test_segment_moveAbs : decodeSegment (ofBytes
    [1, 0, 0x59, 0x02, 1, 1, 0, 0, 0, 0, 0, 0, 0x20, 0x4E, 0, 0, 0x10, 0x27, 0, 0, 0, 0, 0, 0, 0]) =
    ⟨601, true, some 1, some (body (.moveAbs 20000 10000) 1 .afterPrevious)⟩ := by decide +kernel

/-- HOME with offset 100 at 5000, bank 2, HOME_NEG and REVERSE_ON_LIMIT (section 4.5). -/
theorem test_segment_home : decodeSegment (ofBytes
    [6, 0, 0xF4, 0x01, 2, 0x0D, 0, 0, 0, 0, 0, 0, 100, 0, 0, 0, 0x88, 0x13, 0, 0, 0, 0, 0, 0, 0]) =
    ⟨500, true, some 2, some (body (.home 100 5000 true true) 2 .afterPrevious)⟩ := by decide +kernel

/-- MARK on signal 3 with out_start OUT1 to 1 (section 2.6), tag 301. -/
theorem test_segment_mark : decodeSegment (ofBytes
    [7, 2, 0x2D, 0x01, 0, 0, 3, 0, 0, 0, 0, 0, 0, 0, 0, 0, 0, 0, 0, 0, 0, 2, 2, 0, 0]) =
    ⟨301, false, none, some ⟨.mark, 0, .waitSignal 3, none, ⟨2, 2⟩, ⟨0, 0⟩⟩⟩ := by decide +kernel

/-- A MOVE_ABS with velocity 0 breaks R2, but names its bank all the same (R179). -/
theorem test_segment_bad : decodeSegment (ofBytes [1, 0, 1, 0, 5]) = ⟨1, false, some 5, none⟩ := by
  decide +kernel

/-- No word of the table spells a command: it gives no row any bits. -/
theorem test_no_table_word : decodeTableWord 0 0 = none ∧ idle.withFetchWord 0 0 = idle := by
  decide +kernel

/-! ### Resets and the register window -/

theorem test_powerOn : (run .powerOn one).dev = .off ∧ ((run .powerOn one).seq 0).sq = .off := by
  decide +kernel
theorem test_resetLine : (run (.resetLine false) one).resetHeld = true ∧
    (run (.resetLine true) one).resetHeld = false := by decide +kernel
theorem test_resetRelease : (run .resetRelease { one with resetHeld := true }).resetHeld = false := by
  decide +kernel
/-- R177, R50, R11: the position stands and an enabled axis is SQ_EMPTY. -/
theorem test_softReset : ((run (.softReset 2) tracking).mg 0).motion = .still ∧
    ((run (.softReset 2) tracking).seq 0).sq = .empty := by decide +kernel
theorem test_enableSet : (run (.enableSet 1) State.reset).dev = .load := by decide +kernel
/-- SETUP_ALIGN 4, source SETUP 6 (R164, section 11.5). -/
theorem test_enableSet_unaligned :
    (run (.enableSet 1) { State.reset with setupLo := 4 }).readReg 8 = 0x00060400 := by decide +kernel
/-- The drain event can itself end the drain (R174). -/
theorem test_enableClear : (run (.enableClear 0) idle).dev = .off ∧
    (run (.enableClear 0) idle).irq = true := by decide +kernel
theorem test_enableClear_flush : (run (.enableClear 0) one).dev = .drain ∧
    (run (.enableClear 0) one).queue.writing.map (·.kind) = some .axisHalted ∧
    (run (.enableClear 0) one).queue.filled.map (·.kind) = [.drainFlush] := by decide +kernel
/-- A soft STOP_ALL at 10,000 begins a stop ramp, a hard one ends at once (R109, R68, R69). -/
theorem test_stopAllSoft : ((run (.stopAllSoft 5) tracking).seq 0).sq = .halting ∧
    ((run (.stopAllSoft 5) tracking).seq 0).reason = some .stopAll := by decide +kernel
theorem test_stopAllHard : ((run (.stopAllHard 9) tracking).seq 0).sq = .halted ∧
    ((run (.stopAllHard 9) tracking).mg 0).velocity = 0 := by decide +kernel
theorem test_setupLoWrite : (run (.setupLoWrite 0x40) State.reset).readReg 0x0C = 0x40 ∧
    (run (.setupLoWrite 0x40) idle).readReg 0x0C = 0 := by decide +kernel
theorem test_setupHiWrite : (run (.setupHiWrite 1) State.reset).readReg 0x10 = 1 ∧
    (run (.setupHiWrite 1) idle).readReg 0x10 = 0 := by decide +kernel
/-- A POST of index 3 on ring A0 begins a fetch at once (R7, R169). -/
theorem test_post : ((run (.post 0x00030000) one).ring 0).prod = 3 ∧
    ((run (.post 0x00030000) one).ring 0).fetch = .inFlight := by decide +kernel
/-- POST_RANGE 20h with source NONE FFh for a ring number beyond CTL (R169); bits 8 to 15 read 0 (R182). -/
theorem test_post_range : (run (.post 9) idle).readReg 8 = 0x00FF2002 ∧
    (run (.post 0x0003FF00) idle).readReg 0x14 = 0x00030000 := by decide +kernel
/-- With 15 records outstanding CACK 4 is accepted and CACK 16 is not (section 9.7, R157). -/
theorem test_cack : (run (.cack 4) { idle with cpl := ⟨0, 16, 15, 0⟩ }).cpl.host = 4 ∧
    (run (.cack 16) { idle with cpl := ⟨0, 16, 15, 0⟩ }).cpl.host = 0 := by decide +kernel
/-- Acknowledging COUNT alone leaves DEVICE and IRQ (R162). -/
theorem test_intsAcknowledge :
    let m : Moderator := ⟨3, 2, 0, none, true, false, true⟩
    (run (.intsAcknowledge 0x100) { idle with moderator := m }).readReg 0x1C = 0x00010400 := by
  decide +kernel
theorem test_registerWrite : run (.registerWrite 8 5) idle = idle ∧
    run (.registerWrite 0x20 5) idle = idle := by decide +kernel

/-! ### Pins and timed events -/

/-- Section 7.5: filter time 200, raw active from 110, the edge at 310. -/
theorem test_rawChange :
    ((run (.rawChange 3 true) ({ idle with time := 110 }.modLine 3 fun l =>
      { l with filterTime := 200 })).line 3).pendingSince = some 110 := by decide +kernel
theorem test_filterExpiry :
    let s := idle.modLine 3 fun l => { l with pin := true, filterTime := 200, pendingSince := some 110 }
    ((run (.filterExpiry 3) s).line 3).filtered = true ∧ (run (.filterExpiry 3) s).time = 310 := by
  decide +kernel
/-- Section 5.11, step 2: IN3 at position 15,000 halts with LIMIT_POS 41h, position 15,000, aux 10,000. -/
theorem test_rawChange_limit :
    let s := (tracking.modMg 0 fun m => { m with pos := 15000 }).modAxis 0 fun x =>
      { x with cfg := { x.cfg with limitPos := some 3 } }
    answer (run (.rawChange 3 true) s) = some (0x41, 0, 15000, 10000) ∧
    ((run (.rawChange 3 true) s).seq 0).sq = .halting := by decide +kernel
/-- (0,0) to (1,0) counts up, to (0,1) down (R112). -/
theorem test_encoderChange : ((run (.encoderChange 0 true false) one).fbm 0).count = 1 ∧
    ((run (.encoderChange 0 false true) one).fbm 0).count = 0xFFFFFFFF := by decide +kernel
/-- Both inputs at once on a monitored axis is ENCODER, a hard stop (R117). -/
theorem test_encoderChange_phase :
    ((run (.encoderChange 0 true true) (enabled 0 { config with tolerance := 40 } idle)).seq 0).reason =
      some .encoder := by decide +kernel
/-- Section 6.5, step 2: at the step to 5041 with the encoder at 6250 × 4 ÷ 5, FOLLOWING, aux 10,000. -/
theorem test_mgStep_following :
    let c := { config with encNum := 4, encDen := 5, tolerance := 40, faultAction := .hard
                           disableOnFault := true }
    let s := (tracking.modAxis 0 fun x => { x with cfg := c }).modFbm 0 fun f => { f with count := 6250 }
    answer (run (.mgStep 0) (s.modMg 0 fun m => { m with pos := 5040 })) = some (0x44, 0, 5041, 10000) ∧
    (run (.mgStep 0) (s.modMg 0 fun m => { m with pos := 5039 })).queue.writing = none := by
  decide +kernel
/-- Section 3.10: at step 1995 of the rise from 1000 at 100,000 the cruise at 20,000 begins. -/
theorem test_mgStep_cruise :
    let s := one.modMg 0 fun m =>
      { m with pos := 1994, motion := .accel, speedSq := 1000 * 1000 + 2 * 100000 * 1994, cruise := 20000
               goal := .position 10000, profile := ⟨100000, 200000, 1000, 2000⟩ }
    ((run (.mgStep 0) s).mg 0).pos = 1995 ∧ ((run (.mgStep 0) s).mg 0).motion = .cruise ∧
    ((run (.mgStep 0) s).mg 0).velocity = 20000 := by decide +kernel
/-- A rise to 100 at 40,000 takes an eighth of a step (R54), and the RUN holds (R59). -/
theorem test_profilePhaseEnd :
    let s := (window .run [entry (body (.run 100 false) 1 .afterPrevious) (.active none)] one).modMg 0
      fun m => { m with motion := .accel, goal := .velocity 100, profile := ⟨40000, 40000, 0, 0⟩ }
    ((run (.profilePhaseEnd 0) s).mg 0).motion = .hold ∧
    ((run (.profilePhaseEnd 0) s).mg 0).velocity = 100 ∧
    ((run (.profilePhaseEnd 0) s).seq 0).sq = .empty := by decide +kernel
/-- A DWELL completes when the Timebase reaches its expiry (R61). -/
theorem test_dwellExpiry :
    let s := (window .run [entry (body (.dwell 500) 0 .afterPrevious) (.active none)] one).modMg 0
      fun m => { m with goal := .dwell 500 }
    (run (.dwellExpiry 0) s).time = 500 ∧ ((run (.dwellExpiry 0) s).seq 0).window = [] := by
  decide +kernel
theorem test_holdoffExpiry :
    let m : Moderator := ⟨1, 2, 1000, some 1000, false, false, false⟩
    (run .holdoffExpiry { idle with moderator := m }).readReg 0x1C = 0x00010201 := by decide +kernel

/-! ### Transfers -/

/-- A MARK completes at its start event: SEG_DONE with OK (R18, R62, R64). -/
theorem test_fetchCompletion_mark :
    let s := run (.fetchCompletion 0 (ofBytes [7, 0, 9, 0])) (fetching one)
    s.queue.writing.map (fun c => (c.kind, c.tag)) = some (.segDone, 9) ∧ (s.seq 0).sq = .empty := by
  decide +kernel
/-- An unwritten bank: BANK_EMPTY 22h, and the axis halts with REJECT (R13, R19, R20). -/
theorem test_fetchCompletion_reject :
    let s := run (.fetchCompletion 0
      (ofBytes [1, 0, 9, 0, 1, 0, 0, 0, 0, 0, 0, 0, 100, 0, 0, 0, 100, 0, 0, 0])) (fetching one)
    answer s = some (0x22, 0, 0, 0) ∧ (s.seq 0).reason = some .reject ∧ (s.seq 0).sq = .halted := by
  decide +kernel

/-- A descriptor of the setup block (section 11.4). -/
def desc (base size start : Nat) : List Byte :=
  bytes32 (BitVec.ofNat 32 base) ++ [0, 0, 0, 0] ++ bytes16 (BitVec.ofNat 16 size)
    ++ bytes16 (BitVec.ofNat 16 start) ++ [0, 0, 0, 0]

/-- A setup block with a version, a threshold and a start index for A0. -/
def block (version : Word) (threshold : Byte) (start : Nat) : SetupBlock :=
  (bytes32 version ++ [threshold, 0, 10, 0] ++ bytes32 0x100000 ++ [0, 0, 0, 0] ++ desc 0x1000 16 start
    ++ desc 0x2000 16 0 ++ desc 0x3000 16 0 ++ desc 0x4000 16 0 ++ desc 0x5000 16 0
    ++ desc 0x8000 16 0).foldr (fun (b : Byte) (r : SetupBlock) => r <<< 8 ||| b.setWidth 1024) 0

theorem test_setupRead :
    let s := run (.setupReadCompletion (block 0x00020001 1 5)) { State.reset with dev := .load, enable := true }
    s.dev = .run ∧ (s.ring 0).cons = 5 ∧ s.reportPort 0 = some (0x100000, 0x00050005) := by decide +kernel
/-- SETUP_VERSION 1, SETUP_INDEX 3 of ring 0 and SETUP_IRQ 6 (R164). -/
theorem test_setupRead_fails :
    let s : State := { State.reset with dev := .load, enable := true }
    (run (.setupReadCompletion (block 0x00020000 1 5)) s).readReg 8 = 0x00060100 ∧
    (run (.setupReadCompletion (block 0x00020001 1 16)) s).readReg 8 = 0x00000300 ∧
    (run (.setupReadCompletion (block 0x00020001 0 5)) s).readReg 8 = 0x00060600 := by decide +kernel

/-- Section 9.7, step 1: the record in slot 15 is written, the producer index becomes 16, CPL is full. -/
def writing : State :=
  let c : Completion := ⟨.segDone, 2, 60, 0, 0, 0, 0, 0, 0, false⟩
  { idle with cpl := ⟨0x8000, 16, 15, 0⟩, queue := ⟨[], [{ c with seq := 61 }], some c⟩ }
theorem test_cplWrite : (run .cplWriteCompletion writing).cpl.prod = 16 ∧
    (run .cplWriteCompletion writing).queue.writing = none := by decide +kernel
/-- Section 9.7, step 5: after CACK 4 seq 61 goes to slot 0 with phase 0. -/
theorem test_cplWrite_lap :
    let s := run (.cack 4) (run .cplWriteCompletion writing)
    s.cplPort.map (·.1) = some 0x8000 ∧ s.cplPort.map (fun p => byteAt p.2 31) = some 0 := by
  decide +kernel
theorem test_reportWrite :
    let s := idle.modRing 2 fun r => { r with cons := 1, seqNo := 1, report := .writing 0 true }
    (run (.reportWriteCompletion 2) s).reportPort 2 = some (8, 0x00010001) := by decide +kernel
/-- BUS_READ 10h with source A1, DS_FAULT 4 (R172, R175); a CPL write that failed has ended (R159). -/
theorem test_busFault :
    (run (.busFault (.fetch 1)) (idle.modRing 1 fun r => { r with fetch := .inFlight })).readReg 8 =
      0x00011004 ∧ writing.cplPort ≠ none ∧ (run (.busFault .cplWrite) writing).cplPort = none := by
  decide +kernel

/-! ### Commands -/

/-- CONFIG_AXIS on an SQ_OFF axis: OK, SQ_EMPTY 1, 0 and the next sequence number (R142). -/
theorem test_configAxis :
    let r := cmd 1 ([1, 1, 0, 4, 0, 0, 0, 0] ++ bytes32 0 ++ bytes32 0 ++ bytes32 100000 ++ bytes32 20000
      ++ [1, 0, 1, 0])
    answer (run (.configAxis r) (taking idle)) = some (0, 1, 0, 0) ∧
    ((run (.configAxis r) (taking idle)).cfg 1) = { config with limitPos := some 3 } := by decide +kernel
/-- AXIS_BUSY 3 while the axis runs, SQ_RUN 3 (R141). -/
theorem test_configAxis_busy :
    let r := cmd 1 ([0, 0, 0, 0, 0, 0, 0, 0] ++ bytes32 0 ++ bytes32 0 ++ bytes32 1 ++ bytes32 1 ++ [1, 0, 1, 0])
    answer (run (.configAxis r) (taking tracking)) = some (3, 3, 0, 0) := by decide +kernel
/-- Section 7.5: a filter time of 50 at time 150 takes the active level at once. -/
theorem test_configLine :
    let s := idle.modLine 3 fun l => { l with pin := true, filterTime := 200, pendingSince := some 110 }
    answer (run (.configLine (cmd 2 [3, 0, 50, 0, 0, 0])) (taking s)) = some (0, 1, 0, 1) ∧
    ((run (.configLine (cmd 2 [3, 0, 50, 0, 0, 0])) (taking s)).line 3).pendingSince = none := by
  decide +kernel
/-- Section 6.5, step 5: the answers are those before the command; ref = 5000 − 5000. -/
theorem test_setPosition :
    let s := ((enabled 0 { config with encNum := 4, encDen := 5, tolerance := 40 } idle).modMg 0
      fun m => { m with pos := 5041 }).modFbm 0 fun f => { f with count := 6250 }
    let t := run (.setPosition (cmd 3 ([0, 0, 0, 0] ++ bytes32 5000))) (taking s)
    answer t = some (0, 1, 5041, 6250) ∧ (t.fbm 0).ref = 0 ∧ (t.mg 0).pos = 5000 := by decide +kernel
theorem test_setOutputs :
    answer (run (.setOutputs (cmd 4 [6, 2])) (taking { idle with outs := 5 })) = some (0, 0, 5, 3) ∧
    answer (run (.setOutputs (cmd 4 [16, 0])) (taking idle)) = some (2, 0, 0, 0) := by decide +kernel
/-- The example of chapter 8: A0 runs, so that the CTE waits; an empty set ends with OK at once. -/
theorem test_barrier :
    (match (run (.barrier (cmd 5 [1])) (taking tracking)).cte with | .barrier _ => true | _ => false) = true ∧
    answer (run (.barrier (cmd 5 [0])) (taking tracking)) = some (0, 0xFF, 0, 0) := by decide +kernel
/-- The axis of section 5.11 after step 2: SQ_HALTING 4, LIMIT_POS 41h, positive line block. -/
theorem test_queryAxis :
    let s := tracking.modSeq 0 fun q => { q with sq := .halting, reason := some .limitPos, linePos := true }
    answer (run (.queryAxis (cmd 6 [0, 1])) (taking s)) = some (0, 1, 0x00410004, 4) ∧
    answer (run (.queryAxis (cmd 6 [0, 0])) (taking s)) = some (0, 2, 0, 10000) := by decide +kernel
theorem test_queryLines :
    let s := { idle with outs := 9 }.modLine 11 fun l => { l with filtered := true, stopAll := some .soft }
    answer (run (.queryLines (cmd 7 [])) (taking s)) = some (0, 1, 0x800, 9) := by decide +kernel
/-- Refused with BANK_IN_USE 4 while a PENDING entry names the bank (R77). -/
theorem test_writeBank :
    let r := cmd 8 ([1, 0, 0, 0] ++ bytes32 8000000 ++ bytes32 1 ++ bytes32 1000000 ++ bytes32 0)
    answer (run (.writeBank r) (taking idle)) = some (0, 0, 0, 0) ∧
    answer (run (.writeBank r) (taking ((withBank idle).modBank 1 fun b => { b with uses := 2 }))) =
      some (4, 1, 2, 0) := by decide +kernel
theorem test_postSignal :
    let s := idle.modSignal 3 fun x => { x with count := 14 }
    answer (run (.postSignal (cmd 9 [3, 1])) (taking s)) = some (0, 0, 15, 0) ∧
    (run (.postSignal (cmd 9 [3, 2])) (taking s)).queue.filled.map (·.kind) = [.cmdDone] := by
  decide +kernel
/-- Section 2.6, the break: the count of signal 3 is 1, A1 in its list. -/
theorem test_clearSignal :
    answer (run (.clearSignal (cmd 10 [3])) (taking (idle.modSignal 3 fun _ => ⟨1, [1]⟩))) =
      some (0, 0, 1, 1) := by decide +kernel
/-- Section 2.6, step 1: entry 2 OPEN 1 with the members A0 and A1. -/
theorem test_openRendezvous :
    answer (run (.openRendezvous (cmd 11 [2, 3])) (taking idle)) = some (0, 1, 3, 0) ∧
    ((run (.openRendezvous (cmd 11 [2, 3])) (taking idle)).entry 2) = ⟨.opened, 3, 0, 0, 0⟩ := by
  decide +kernel
theorem test_closeRendezvous :
    let s := idle.modEntry 2 fun _ => ⟨.opened, 3, 1, 4, 500⟩
    answer (run (.closeRendezvous (cmd 12 [2])) (taking s)) = some (6, 1, 1, 500) ∧
    answer (run (.closeRendezvous (cmd 12 [2])) (taking (s.modEntry 2 fun r => { r with arrived := 0 }))) =
      some (0, 1, 4, 500) := by decide +kernel
/-- HALT HARD on the running axis: HALTED 2, HOST 46h, and its SEG_ABORTED first. -/
theorem test_halt :
    let t := run (.halt (cmd 13 [0, 1])) (taking tracking)
    answer t = some (0x46, 0, 0, 10000) ∧
    t.queue.filled.map (fun c => (c.kind, c.second, c.pos)) = [(.cmdDone, 2, 0x46)] := by decide +kernel
/-- A0 is a member of entry 0, where A3 has arrived, and of entry 1, where A1 has: both break, and the GROUP
halts of A1 and A3 come in ascending axis number (R46, R154). -/
theorem test_halt_group :
    let s := ((enabled 3 config (enabled 1 config one)).modEntry 0 fun _ => ⟨.opened, 9, 8, 0, 0⟩).modEntry 1
      fun _ => ⟨.opened, 3, 2, 0, 0⟩
    let t := run (.halt (cmd 13 [0, 0])) (taking s)
    (t.queue.writing.toList ++ t.queue.filled).map (fun c => (c.kind, c.ring)) =
      [(.axisHalted, 0), (.axisHalted, 1), (.axisHalted, 3), (.cmdDone, 4)] := by decide +kernel
/-- Section 5.11, step 4: KEEP with two entries; seq 8 is rejected DIRECTION_BLOCKED 25h. -/
theorem test_resume_keep :
    let b := body (.moveAbs 25000 10000) 1 .afterPrevious
    let s := window .halted [entry b (.pending .notArmed), entry (body .mark 0 .afterPrevious)
      (.pending .notArmed)] (withBank one)
    let t := run (.resume (cmd 14 [0, 0]))
      (taking (s.modSeq 0 fun q => { q with reason := some .limitPos, linePos := true }))
    answer t = some (0x25, 0, 0, 0) ∧ (t.seq 0).reason = some .reject ∧
    t.queue.filled.map (fun c => (c.kind, c.second, c.pos)) =
      [(.axisHalted, 0, 0), (.cmdDone, 0x41, 2)] := by decide +kernel
/-- Section 5.11, step 5: FLUSH of the one entry, seq 7 here: reason REJECT 48h, count 1, first 7. -/
theorem test_resume_flush :
    let s := (window .halted [entry (body .mark 0 .afterPrevious) (.pending .notArmed)] one).modSeq 0
      fun q => { q with reason := some .reject }
    answer (run (.resume (cmd 14 [0, 1])) (taking s)) = some (0, 0x48, 1, 7) := by decide +kernel
/-- Section 6.7: unit 1 on IN6, RISE, A0, CONTINUOUS: OK and ARMED 1. -/
theorem test_armCapture :
    answer (run (.armCapture (cmd 15 [1, 6, 1, 0, 1])) (taking idle)) = some (0, 1, 0, 0) := by
  decide +kernel
/-- Section 6.7, step 5: ARMED_PENDING 2, first word 1, missed 0; the notice is withdrawn. -/
theorem test_disarmCapture :
    let s := { idle with owed := [.capture 1] }.setCap 1
      (.armedPending ⟨6, .rise, 0, true⟩ ⟨true, 3200, 3200, 0, 0⟩)
    answer (run (.disarmCapture (cmd 16 [1])) (taking s)) = some (0, 2, 1, 0) := by decide +kernel
theorem test_unknownCommandKind :
    answer (run (.unknownCommandKind (cmd 17 [1])) (taking idle)) = some (1, 0, 0, 0) := by decide +kernel
/-- BAD_COMMAND for a kind that names no command, whatever the row (R138, R180, log entry 24). -/
theorem test_unknownCommandKind_rows :
    answer (run (.queryLines (cmd 0 [])) (taking idle)) = some (1, 0, 0, 0) ∧
    run (.queryLines (cmd 5 [])) (taking idle) = taking idle := by decide +kernel

/-! ### States that meet the hypotheses of the obligations

One theorem for each obligation with hypotheses, named after it; a clause that has hypotheses of its own
has its state at a boundary value. -/

theorem takes_taking : takes (taking one) := by unfold takes; decide +kernel
theorem takes_tracking : takes (taking tracking) := by unfold takes; decide +kernel

/-- A0 waits on signal 3 as its head, with a MARK. -/
def listening : State :=
  (window (.wait .cond) [entry (body .mark 0 (.waitSignal 3)) (.pending .waitCond)] one).modSignal 3
    fun _ => ⟨0, [0]⟩

/-- A0 and behind it A1 wait on signal 3, whose count is `n`, the candidate of A0 in the given progress. -/
def queueing (q : WaitCause) (p : Progress) (n : Nat) (s : State) : State :=
  let e := entry (body .mark 0 (.waitSignal 3)) (.pending p)
  ((window (.wait q) [e] s).modSeq 1 fun x => { x with sq := .wait .cond, window := [e] }).modSignal 3
    fun _ => ⟨n, [0, 1]⟩

theorem meets_IdleStepIsOneMicrosecond :
    let rise : MG := { (one.mg 0) with motion := .accel, goal := .velocity 100, profile := ⟨40000, 40000, 0, 0⟩ }
    tracking.pending = [] ∧ tracking.resetHeld = false ∧ { tracking with resetHeld := true }.pending = [] ∧
    (one.mg 0).motion = .still ∧ rise.motion ≠ .still ∧ rise.frac ≤ 1 ∧ rise.phaseEnd = some (1 / 8) := by
  decide +kernel

theorem inv_one : Safety.Inv one where
  queue := by unfold queueOk; decide +kernel
  signals := by unfold signalsOk; decide +kernel
  rdv := by unfold rdvOk entryOk; decide +kernel
  window := by unfold windowOk; decide +kernel
  active := by unfold activeOk; decide +kernel
  still := by unfold stillOk; decide +kernel
  uses := by unfold usesOk; decide +kernel

theorem meets_StepKeepsTheInvariant : Safety.Inv one ∧ ∃ t, step one = .next t := ⟨inv_one, _, rfl⟩

theorem meets_ConfigurationHasOneWriter : ∃ t, exec (.cack 0) idle = .next t ∧
    isHardReset (.cack 0) = false ∧ (∀ r, Instr.cack 0 ≠ .configAxis r) ∧ (∀ r, Instr.cack 0 ≠ .writeBank r) ∧
    (∀ r, Instr.cack 0 ≠ .configLine r) ∧ (∀ l h, Instr.cack 0 ≠ .rawChange l h) ∧
    (∀ l, Instr.cack 0 ≠ .filterExpiry l) ∧ idle.resetHeld = false :=
  ⟨_, rfl, rfl, nofun, nofun, nofun, nofun, nofun, rfl⟩

theorem meets_HardResetsSetTheResetValues :
    { one with resetHeld := true }.resetHeld = true ∧ one.resetHeld = false := ⟨rfl, rfl⟩

theorem meets_SoftResetClearsAndKeeps : one.resetHeld = false := rfl

theorem meets_EnableSetLoadsOrFails :
    let s (d : DevState) (lo : Word) : State := { State.reset with dev := d, setupLo := lo, setupHi := 0xFFFFFFFF }
    ((s .off 0xFFFFFFE0).resetHeld = false ∧ (s .off 0xFFFFFFE0).dev = .off ∧
      ((s .off 0xFFFFFFE0).setupHi ++ (s .off 0xFFFFFFE0).setupLo : BitVec 64).toNat % 32 = 0) ∧
    ((s .off 31).setupHi ++ (s .off 31).setupLo : BitVec 64).toNat % 32 ≠ 0 ∧ (s .load 0).dev = .load ∧
    (s .run 0).dev = .run ∧ (s .drain 0).dev = .drain ∧ (s .fault 0).dev = .fault ∧
    ctrlStopSoft 1 = false ∧ ctrlStopHard 1 = false := by decide +kernel

theorem meets_EnableClearDrainsOrRecords :
    let s (d : DevState) : State := { one with dev := d }
    one.resetHeld = false ∧ one.dev = .run ∧ (s .fault).dev = .fault ∧ (s .drain).dev = .drain ∧
    (s .load).dev = .load ∧ State.reset.dev = .off ∧ ctrlStopHard 8 = true ∧ ctrlStopSoft 4 = true ∧
    ctrlStopHard 4 = false ∧ ctrlStopSoft 0 = false := by decide +kernel

theorem meets_DrainEmptiesTheWindows :
    let b : BarrierRec := (taking tracking).barrierRec (cmd 5 [1]) 0 1
    let s : State := { taking one with cte := .barrier b }
    (∀ a, (tracking.seq a).sq = .off → (tracking.seq a).window = []) ∧ live tracking 0 ∧ activeOk tracking ∧
    (tracking.seq 0).activeEntry.isSome = true ∧ ((window .halting [] tracking).seq 0).sq = .halting ∧
    ((window .halted [] one).seq 0).sq = .halted ∧ (tracking.seq 0).sq ≠ .off ∧
    { one with queue := ⟨List.replicate 8 .cte, [], none⟩ }.drainEvent.owed ≠ [] ∧ one.cte = .idle ∧
    { one with cte := .claim }.cte = .claim ∧ (taking one).cte = .fetch ∧ s.cte = .barrier b ∧
    Holder.cte ∈ s.queue.reserved := by
  refine ⟨?_, .inr (.inr ?_), ?_, ?_⟩
  · decide +kernel
  · decide +kernel
  · unfold activeOk; decide +kernel
  · decide +kernel

theorem meets_StopAllHaltsEveryAxis :
    let s (d : DevState) : State := { one with dev := d }
    one.resetHeld = false ∧ one.dev = .run ∧ (s .drain).dev = .drain ∧ (s .fault).dev = .fault ∧
    (s .load).dev = .load ∧ State.reset.dev = .off ∧ ctrlEnable 5 = true ∧ ctrlEnable 4 = false := by
  decide +kernel

/-- Ring CTL with the last index of its size, the first beyond it, and ring number 5. -/
theorem meets_PostMovesTheProducerIndex : one.resetHeld = false ∧ one.dev = .run ∧
    ((0x000F0004#32).extractLsb' 0 8).toNat = (4 : RingNo).val ∧ (one.ring 4).size = 16 ∧
    ((0x000F0004#32).extractLsb' 16 16).toNat = 15 ∧ ((0x00100004#32).extractLsb' 16 16).toNat = 16 ∧
    4 < ((0x00000005#32).extractLsb' 0 8).toNat ∧ State.reset.dev = .off ∧
    { one with dev := .fault }.dev = .fault := by decide +kernel

/-- 15 outstanding, host index 0: value 15 advances to the producer index, value 16 goes beyond it. -/
theorem meets_CackMovesTheHostIndex :
    let s := { idle with cpl := ⟨0, 16, 15, 0⟩ }
    s.resetHeld = false ∧ s.dev = .run ∧ 15 < 2 * s.cpl.size ∧
    (15 + 32 - s.cpl.host) % 32 ≤ (s.cpl.prod + 32 - s.cpl.host) % 32 ∧
    ¬ (16 + 32 - s.cpl.host) % 32 ≤ (s.cpl.prod + 32 - s.cpl.host) % 32 := by decide +kernel

theorem meets_AcknowledgeClearsCauses : one.resetHeld = false ∧ (0x100#32).getLsbD 8 = true ∧
    (0x8FF#32).getLsbD 8 = false ∧ (0x8FF#32).getLsbD 9 = false ∧ (0x8FF#32).getLsbD 10 = false := by
  decide +kernel

theorem meets_RegisterWritesByTheirOffset : one.resetHeld = false ∧ State.reset.dev = .off ∧ one.dev ≠ .off ∧
    writableOffsets.contains 0 = false ∧ writableOffsets.contains 8 = false ∧
    writableOffsets.contains 0x20 = false ∧
    { one with moderator := ⟨255, 255, 0, none, true, true, true⟩ }.moderator.count ≤ 255 ∧
    0x02#32 ∉ [0x00#32, 0x04#32, 0x08#32, 0x0C#32, 0x10#32, 0x14#32, 0x18#32, 0x1C#32] := by decide +kernel

theorem meets_FilterRaisesTheEdge :
    let s (t : Nat) (f : Bool) := idle.modLine 11 fun l =>
      { l with filterTime := t, filtered := f, pendingSince := some 0xFFFFFFFF }
    let b := body .mark 0 (.waitInput 11 .rise)
    let w := window (.wait .cond) [entry b (.pending .waitCond)] one
    let k := one.modLine 11 fun l => { l with stopAll := some .hard }
    idle.resetHeld = false ∧ (idle.line 11).pin = false ∧ (idle.line 11).activeLow = false ∧
    ((s 1023 true).line 11).filtered = true ∧ ((s 0 false).line 11).filterTime = 0 ∧
    ((s 1023 false).line 11).filterTime ≠ 0 ∧ ((s 1023 true).line 11).pendingSince = some 0xFFFFFFFF ∧
    (idle.line 11).pendingSince = none ∧ (w.seq 0).sq = .wait .cond ∧
    (w.seq 0).candidate = some (entry b (.pending .waitCond)) ∧ (one.seq 0).sq ≠ .wait .cond ∧
    (k.line 11).stopAll = some .hard ∧ (one.line 11).stopAll = none := by decide +kernel

theorem meets_LimitEdgeBlocksAndHalts :
    let s := tracking.modAxis 0 fun x => { x with cfg := { x.cfg with limitPos := some 11 } }
    let b := body (.home (-2147483648) 1000000 true false) 1 .afterPrevious
    let h (p : HomePhase) := window .run [entry b (.active (some ⟨p, true, none, none⟩))] s
    (s.seq 0).homing = none ∧ (s.cfg 0).limit true = some 11 ∧ (s.cfg 0).limit false ≠ some 11 ∧
    (s.mg 0).motion ≠ .still ∧ (s.mg 0).positive = true ∧ (h .search).activeBody 0 = some b ∧
    (∀ p ∈ [HomePhase.leadIn, .clear, .search, .searchBack, .settle],
      ((h p).seq 0).homing = some ⟨p, true, none, none⟩) := by decide +kernel

theorem meets_CaptureTakesTheEdge :
    let c : CapConfig := ⟨6, .rise, 0, true⟩
    let p : CapPending := ⟨true, 2000, 2000, 0, 255⟩
    (idle.setCap 3 (.armed c)).cap 3 = .armed c ∧ (idle.setCap 3 (.armedPending c p)).cap 3 = .armedPending c p ∧
    (idle.setCap 3 (.spentPending c p)).cap 3 = .spentPending c p ∧ idle.cap 3 = .disarmed := by decide +kernel

/-- From (0,0): forward, backward, both, neither. -/
theorem meets_EncoderCountsQuadrature :
    let f := one.fbm 0
    one.resetHeld = false ∧ (true, false) = (!f.encB, f.encA) ∧ (false, true) = (f.encB, !f.encA) ∧
    (true, true) = (!f.encA, !f.encB) ∧ (false, false) = (f.encA, f.encB) := by decide +kernel

/-- The deviations 40 and 41 of section 6.5 at a tolerance of 40. -/
theorem meets_DeviationTestTrips :
    let s (p : Int) := (enabled 0 { config with tolerance := 40, disableOnFault := true } idle).modMg 0
      fun m => { m with pos := p }
    one.monitored 0 = false ∧ (s 41).monitored 0 = true ∧ ((s 41).cfg 0).tolerance = 40 ∧
    ((s 41).fbm 0).tripped = false ∧ ((s 41).mg 0).pos = 41 ∧ ((s 40).mg 0).pos = 40 ∧
    ((s 41).modFbm 0 fun f => { f with tripped := true }).monitored 0 = true ∧
    ((s 41).cfg 0).disableOnFault = true ∧ ((s 41).seq 0).sq ≠ .off ∧ (one.cfg 0).disableOnFault = false := by
  decide +kernel

theorem meets_TimedEventsTakePlace :
    let g (x : Goal) := one.modMg 0 fun m => { m with goal := x }
    let rise := one.modMg 0 fun m => { m with motion := .accel, goal := .velocity 100, profile := ⟨40000, 40000, 0, 0⟩ }
    (tracking.mg 0).stepNext = true ∧ (one.mg 0).stepNext = false ∧ (rise.mg 0).phaseEndNext = true ∧
    (one.mg 0).phaseEndNext = false ∧ ((g (.dwell 5)).mg 0).goal = .dwell 5 ∧
    { one with moderator := ⟨1, 2, 9, some 9, false, false, false⟩ }.moderator.timer = some 9 ∧
    one.moderator.timer = none ∧ one.resetHeld = false := by decide +kernel

/-- A phase that ends, from 10,000 with decel 50,000: to zero over 1000 steps, to 20,000 over 3000, to 5000 over
750, and a cruise to the descent at 20,000 over 19,000. -/
theorem meets_TimedEventsTakePlace_phases :
    let m := tracking.mg 0
    let d : MG := { m with motion := .decel }
    let u : MG := { m with motion := .accel, cruise := 20000 }
    { m with motion := .stopRamp }.phaseEnd = some 1000 ∧ { d with goal := .standstill }.phaseEnd = some 1000 ∧
    { d with goal := .velocity 0 }.phaseEnd = some 1000 ∧ { u with goal := .velocity 20000 }.phaseEnd = some 3000 ∧
    { d with goal := .velocity 5000 }.phaseEnd = some 750 ∧ u.phaseEnd = some 3000 ∧ m.phaseEnd = some 19000 ∧
    { d with cruise := 5000 }.phaseEnd = some 750 ∧ m.form = .trapezoid ∧ 1 ≤ m.profile.accel ∧
    1 ≤ m.profile.decel ∧ m.goal = .position 20000 ∧ m.reversing = false ∧
    { d with reversing := true }.phaseEnd = some 1000 ∧
    { d with reversing := true, goal := .velocity (-1) }.phaseEnd = some 1000 := by decide +kernel

theorem meets_StepMovesByOne :
    let m := { tracking.mg 0 with pos := 19999 }
    m.goal = .position 20000 ∧ m.reversing = false ∧ m.step.1.pos = 20000 ∧ m.step.2 = .targetReached ∧
    { m with goal := .standstill, motion := .decel, speedSq := 100000 }.step.2 = .standstill ∧
    { m with goal := .standstill, motion := .decel, speedSq := 1 }.endPhaseNow.2 = .standstill ∧
    ((window .halting [] one).seq 0).sq = .halting ∧ ((window .halting [] one).mg 0).motion = .still ∧
    ((window .halting [] tracking).mg 0).motion ≠ .still ∧ (one.seq 0).sq ≠ .run ∧
    (tracking.seq 0).sq = .run ∧
    tracking.activeBody 0 = some (body (.moveAbs 20000 10000) 1 .afterPrevious) := by decide +kernel

/-- From 10,000 with decel 50,000 the stopping distance is 1000. -/
theorem meets_MoveFromStandstillIsPlanned :
    let m := tracking.mg 0
    let w (m : MG) : Rat := ((m.profile.vstop * m.profile.vstop : Nat) : Rat)
    let slow : MG := { m with profile := { m.profile with vstop := 10000 } }
    (one.mg 0).motion = .still ∧ (1 : Int) ≠ (one.mg 0).pos ∧ m.motion ≠ .still ∧ m.positive = true ∧
    m.pos = 0 ∧ m.stopDistance = 1000 ∧ slow.motion ≠ .still ∧ slow.speedSq ≤ w slow ∧ ¬ m.speedSq ≤ w m ∧
    ((10000 * 10000 : Nat) : Rat) = m.speedSq ∧ m.speedSq < ((10001 * 10001 : Nat) : Rat) ∧
    ((9999 * 9999 : Nat) : Rat) < m.speedSq := by decide +kernel

theorem meets_StopsOfTheMG :
    let m := tracking.mg 0
    (one.mg 0).motion = .still ∧ m.motion ≠ .still ∧ m.motion ≠ .stopRamp ∧
    (0 : Rat) ≤ ((m.profile.vstop * m.profile.vstop : Nat) : Rat) ∧
    ¬ m.speedSq ≤ ((m.profile.vstop * m.profile.vstop : Nat) : Rat) ∧
    { m with motion := .stopRamp }.motion = .stopRamp := by decide +kernel

theorem meets_FetchCompletionJoinsTheWindow : one.resetHeld = false ∧
    (one.ring (axisRing 0)).fetch = .idle ∧ ((fetching one).ring (axisRing 0)).fetch = .inFlight ∧
    ((fetching one).seq 0).sq = .empty ∧ ((fetching tracking).seq 0).sq ≠ .empty ∧
    ((one.modRing 0 fun r => { r with fetch := .discard }).ring (axisRing 0)).fetch = .discard := by
  decide +kernel

theorem meets_SetupReadLoadsOrFails :
    let s : State := { State.reset with dev := .load, enable := true }
    let l (x : State) := x.modLine 11 fun l => { l with stopAll := some .soft, filtered := true }
    s.resetHeld = false ∧ s.dev = .load ∧ s.enable = true ∧ one.dev ≠ .load ∧
    { s with enable := false }.enable = false ∧ one.stopLineActive = false ∧
    (l one).stopLineActive = true ∧ ((l one).seq 0).sq = .empty ∧
    (readSetup (block 0x00020001 255 15)).check = none ∧
    (readSetup (block 0x00020001 0 0)).check = some (.setupIrq, .setup) := by decide +kernel

/-- A setup with one ring, the last, or the report area, at fault. -/
theorem meets_SetupPassesExactlyWhenSound :
    let d (base size start : Nat) : RingDesc := ⟨BitVec.ofNat 64 base, size, start⟩
    let x (r : RingDesc) (report : BitVec 64) : Setup := ⟨0x00020001, 0, 0, report,
      #v[d 0x1000 16 15, d 0x2000 16 0, d 0x3000 16 0, d 0x4000 16 0, d 0x5000 1024 0, r]⟩
    let fits (d : RingDesc) : Bool := d.size ∈ [16, 32, 64, 128, 256, 512, 1024] && decide (d.start < d.size)
      && d.base.toNat % 32 == 0 && decide (d.base.toNat + 32 * d.size ≤ 2 ^ 64)
    let y := x (d 0x8000 16 0) 0x100000
    (∀ j : Fin 6, j < 5 → fits (y.rings.get j) = true) ∧ fits (d 0xD000 16 0) = true ∧
    fits (d 0xD000 2048 0) = false ∧ fits (d 0xD000 16 16) = false ∧ fits (d 0xD010 16 0) = false ∧
    ((x (d 0xD000 16 0) 0x10010).report.toNat % 32 = 16) ∧ y.version = 0x00020001 ∧
    { y with version := 0 }.version ≠ 0x00020001 ∧ ¬ (1 ≤ y.threshold ∧ y.threshold ≤ 255) ∧
    (0x5000 < 0x8000 + 32 * 16 ∧ 0x8000 < 0x5000 + 32 * 1024) ∧
    (x (d 0xD000 16 0) 0x100000).check = some (.setupIrq, .setup) ∧ y.check = some (.setupOverlap, .cpl) := by
  decide +kernel

theorem meets_CplWriteBeginsWithRoom :
    let c : Completion := ⟨.segDone, 2, 61, 0, 0, 0, 0, 0, 0, false⟩
    let s (prod : Nat) : State := { idle with cpl := ⟨0x8000, 16, prod, 0⟩, queue := ⟨[], [c], none⟩ }
    let p := (one.modRing 0 fun r => { r with prod := 15 }).modRing ctl fun r => { r with prod := 1 }
    (s 15).queue.writing = none ∧ (s 15).queue.filled = [c] ∧ (s 15).dev = .run ∧
    ((s 15).cpl.prod + 32 - (s 15).cpl.host) % 32 < (s 15).cpl.size ∧
    (s 16).cpl.size ≤ ((s 16).cpl.prod + 32 - (s 16).cpl.host) % 32 ∧
    { s 15 with dev := .fault }.dev ≠ .run ∧ { s 15 with dev := .fault }.dev ≠ .drain ∧
    (p.dev = .run ∧ (p.seq 0).sq = .empty ∧ (p.ring (axisRing 0)).fetch = .idle ∧
      (p.seq 0).window.length < 4 ∧ (p.ring (axisRing 0)).prod ≠ (p.ring (axisRing 0)).cons) ∧
    (one.ring (axisRing 0)).prod = (one.ring (axisRing 0)).cons ∧
    (p.cte = .idle ∧ (p.ring ctl).prod ≠ (p.ring ctl).cons) ∧ { p with cte := .claim }.cte ≠ .idle := by
  decide +kernel

theorem meets_WriteCompletionsEndTheirWrite :
    let m : Moderator := ⟨255, 255, 0, none, false, false, false⟩
    let r (x : ReportState) := idle.modRing 4 fun r => { r with report := x }
    m.count ≤ 255 ∧ writing.resetHeld = false ∧ writing.dev = .run ∧ writing.queue.writing.isSome = true ∧
    idle.queue.writing = none ∧ ((r (.writing 1 true)).ring 4).report = .writing 1 true ∧
    ((r (.writing 1 false)).ring 4).report = .writing 1 false ∧ (idle.ring 4).report = .idle := by
  decide +kernel

theorem meets_BusFaultStopsThePart : one.resetHeld = false ∧ one.inProgress .cplWrite = false ∧
    writing.inProgress .cplWrite = true ∧ (fetching one).inProgress (.fetch 0) = true := by decide +kernel

theorem meets_DrainAndFaultEndAtRest :
    { one with dev := .drain }.dev = .drain ∧ (∀ a, (one.mg a).motion = .still) ∧ one.queue = .reset ∧
    one.owed = [] ∧ (∀ r, (one.ring r).fetch = .idle ∧ (one.ring r).report = .idle) ∧
    { one with dev := .fault, enable := false }.enable = false ∧ ¬ ∀ a, (tracking.mg a).motion = .still := by
  decide +kernel

theorem meets_SegmentRecordsRoundTrip : (body (.home (-2147483648) 1000000 true true) 7
    (.waitPosition 3 false 2147483647)).wf = true ∧ (body (.dwell 2147483647) 0 .afterPrevious).wf = true := by
  decide +kernel

theorem meets_CommandsAreTakenAndDone :
    let r (k : Byte) := ofBytes [k, 1, 0, 0, 4]
    takes (taking one) ∧ ¬ takes one ∧ (byteAt (r 0) 0).toNat = 0 ∧ 16 < (byteAt (r 17) 0).toNat ∧
    (byteAt (r 1) 0).toNat = 1 ∧ (byteAt (r 16) 0).toNat = 16 ∧
    (ctlRows (r 16))[15]? = some (.disarmCapture (r 16), 5, 4) ∧ 4 ≤ (byteAt (r 16) 4).toNat ∧
    1 < (byteAt (ofBytes [16, 2]) 1).toNat ∧ zeroBytes (ofBytes [16, 0, 0, 0, 0, 1]) 5 32 = false ∧
    Holder.cte ∈ (taking one).queue.reserved := by
  refine ⟨takes_taking, ?_, ?_⟩
  · unfold takes; decide +kernel
  · decide +kernel

/-- A CONFIG_AXIS record at the ends of its ranges. -/
def extreme (enable : Byte) : Record :=
  cmd 1 ([3, 0x1E ||| enable, 12, 0, 1, 0x40, 0x42, 0x0F] ++ bytes32 0x80000000 ++ bytes32 0x7FFFFFFF
    ++ bytes32 8000000 ++ bytes32 1000000 ++ [0xFF, 0xFF, 1, 0])

theorem meets_ConfigAxisIsJudgedByState : takesKind (taking one) (extreme 1) 1 ∧
    takesKind (taking tracking) (extreme 0) 1 ∧ (argConfigAxis (extreme 1)).isSome = true ∧
    (argConfigAxis (extreme 0)).isSome = true ∧ argConfigAxis (cmd 1 [4]) = none ∧
    kindByte (cmd 1 [4]) = 1 ∧ (one.seq 0).sq = .empty ∧ (one.mg 0).motion = .still ∧ (one.seq 1).sq = .off ∧
    (tracking.seq 0).sq = .run ∧ { one with dev := .drain }.dev = .drain := by
  refine ⟨⟨takes_taking, ?_⟩, ⟨takes_tracking, ?_⟩, ?_⟩ <;> decide +kernel

theorem meets_ConfigAxisEffect :
    let s := one.modLine 0 fun l => { l with stopAll := some .soft, filtered := true }
    rdvOk one ∧ (one.seq 0).sq ≠ .off ∧ one.stopLineActive = false ∧ (s.seq 1).sq = .off ∧
    s.stopLineActive = true ∧ (s.mg 1).motion = .still := by
  refine ⟨inv_one.rdv, ?_⟩; decide +kernel

theorem meets_ConfigLineTakesTheLevel :
    let r (low : Byte) (f role hard : Byte) := cmd 2 [11, low, 0xFF, f, role, hard]
    takesKind (taking one) (r 1 3 1 1) 2 ∧ takesKind (taking one) (r 2 3 1 1) 2 ∧
    (byteAt (r 1 3 1 1) 1).toNat ≤ 1 ∧ (byteAt (r 1 3 1 1) 4).toNat = (11 : Line).val ∧
    zeroBytes (r 1 3 1 1) 10 32 = true ∧ (byteAt (r 1 3 1 1) 5).toNat = 1 ∧
    (byteAt (r 1 3 1 1) 8).toNat = 1 ∧ (byteAt (r 1 3 1 1) 9).toNat = 1 ∧
    (halfAt (r 1 3 1 1) 6).toNat = 1023 ∧ 1 < (byteAt (r 2 3 1 1) 5).toNat ∧
    1023 < (halfAt (r 1 4 1 1) 6).toNat ∧ byteAt (r 1 3 0 1) 8 = 0 ∧ byteAt (r 1 3 0 1) 9 ≠ 0 := by
  refine ⟨⟨takes_taking, ?_⟩, ⟨takes_taking, ?_⟩, ?_⟩ <;> decide +kernel

theorem meets_SetPositionWhereSettled :
    let r (z : Byte) := cmd 3 ([3, 0, 0, z] ++ bytes32 0x80000000)
    let watched := (window (.wait .cond) [entry (body .mark 0 (.waitPosition 3 true 0)) (.pending .waitCond)]
      one).setWatcher 3 0 (some ⟨true, 0⟩)
    takesKind (taking one) (r 0) 3 ∧ takesKind (taking tracking) (r 1) 3 ∧ (byteAt (r 0) 1).toNat ≤ 1 ∧
    (byteAt (r 0) 4).toNat = (3 : Axis).val ∧ zeroBytes (r 0) 12 32 = true ∧ zeroBytes (r 0) 5 8 = true ∧
    zeroBytes (r 1) 5 8 = false ∧ (one.seq 3).sq = .off ∧ (tracking.seq 0).sq = .run ∧
    (watched.mg 3).watchers.get 0 = some ⟨true, 0⟩ ∧ 0 ≤ (watched.mg 3).pos ∧ ¬ 1 ≤ (watched.mg 3).pos ∧
    (watched.seq 0).sq = .wait .cond := by
  refine ⟨⟨takes_taking, ?_⟩, ⟨takes_tracking, ?_⟩, ?_⟩ <;> decide +kernel

theorem meets_SetOutputsTakesTheMask :
    let r (m v : Byte) := cmd 4 [m, v]
    takesKind (taking one) (r 15 15) 4 ∧ (byteAt (r 15 15) 1).toNat ≤ 1 ∧ zeroBytes (r 15 15) 6 32 = true ∧
    (byteAt (r 15 15) 4).toNat ≤ 15 ∧ (byteAt (r 15 15) 5).toNat ≤ 15 ∧ 15 < (byteAt (r 16 0) 4).toNat ∧
    zeroBytes (r 16 0) 6 32 = true ∧ 15 < (byteAt (r 0 16) 5).toNat := by
  refine ⟨⟨takes_taking, ?_⟩, ?_⟩ <;> decide +kernel

/-- A0 SQ_HALTED, A0 running, and A3 alone, which is SQ_OFF. -/
theorem meets_BarrierEndsOrWaits :
    let r (m : Byte) := cmd 5 [m]
    let b : BarrierRec := (taking tracking).barrierRec (r 1) 0 1
    let s : State := { tracking with cte := .barrier b }
    takesKind (taking one) (r 15) 5 ∧ takesKind (taking tracking) (r 15) 5 ∧ (byteAt (r 15) 1).toNat ≤ 1 ∧
    (byteAt (r 15) 4).toNat ≤ 15 ∧ zeroBytes (r 15) 5 32 = true ∧ { one with dev := .drain }.dev = .drain ∧
    one.dev ≠ .drain ∧ ((window .halted [] one).seq 0).sq = .halted ∧ (tracking.seq 0).sq = .run ∧
    (one.seq 3).sq = .off ∧ s.cte = .barrier b ∧ b.axes.getLsbD 0 = true ∧ b.axes.getLsbD 1 = false ∧
    HaltReason.group ≠ .drain := by
  refine ⟨⟨takes_taking, ?_⟩, ⟨takes_tracking, ?_⟩, ?_⟩ <;> decide +kernel

theorem meets_BarrierEndsOrWaits_idle : ∀ b, one.cte ≠ .barrier b :=
  have h : one.cte = .idle := by decide +kernel
  fun _ hb => nomatch h.symm.trans hb

theorem meets_QueriesAnswerTheState :
    let r (p : Byte) := cmd 6 [3, p]
    takes (taking one) ∧ byteAt (cmd 7 []) 0 = 7 ∧ (byteAt (cmd 7 []) 1).toNat ≤ 1 ∧
    zeroBytes (cmd 7 []) 4 32 = true ∧ byteAt (r 3) 0 = 6 ∧
    (byteAt (r 3) 4).toNat = (3 : Axis).val ∧ zeroBytes (r 3) 6 32 = true ∧ byteAt (r 0) 5 = 0 ∧
    byteAt (r 1) 5 = 1 ∧ byteAt (r 2) 5 = 2 ∧ byteAt (r 3) 5 = 3 ∧ 3 < (byteAt (r 4) 5).toNat := by
  refine ⟨takes_taking, ?_⟩; decide +kernel

theorem meets_WriteBankFillsAnUnusedBank :
    let r (accel : Word) := cmd 8 ([7, 0, 0, 0] ++ bytes32 accel ++ bytes32 1 ++ bytes32 1000000 ++ bytes32 0)
    takesKind (taking one) (r 8000000) 8 ∧ (byteAt (r 8000000) 1).toNat ≤ 1 ∧ (byteAt (r 8000000) 4).toNat = (7 : BankNo).val ∧
    zeroBytes (r 8000000) 5 8 = true ∧ zeroBytes (r 8000000) 24 32 = true ∧
    (wordAt (r 8000000) 8).toNat = 8000000 ∧ (wordAt (r 8000000) 12).toNat = 1 ∧
    (wordAt (r 8000000) 16).toNat = 1000000 ∧ (wordAt (r 8000000) 20).toNat = 0 ∧
    8000000 < (wordAt (r 8000001) 8).toNat ∧ zeroBytes (cmd 8 [7, 0, 0, 1]) 5 8 = false ∧ (one.bank 7).uses = 0 ∧
    0 < ((one.modBank 7 fun b => { b with uses := 1 }).bank 7).uses ∧
    ((withBank one).bank 1).written = true ∧ isHardReset (.cack 0) = false := by
  refine ⟨⟨takes_taking, ?_⟩, ?_⟩ <;> decide +kernel

theorem meets_PostSignalPosts :
    let r (n k : Byte) := cmd 9 [n, k]
    takesKind (taking one) (r 15 15) 9 ∧ (byteAt (r 15 15) 1).toNat ≤ 1 ∧ zeroBytes (r 15 15) 6 32 = true ∧
    (byteAt (r 15 15) 4).toNat = (15 : SignalNo).val ∧ (byteAt (r 15 15) 5).toNat = 15 ∧
    15 < (byteAt (r 16 1) 4).toNat ∧ (byteAt (r 0 0) 5).toNat = 0 ∧ 15 < (byteAt (r 0 16) 5).toNat := by
  refine ⟨⟨takes_taking, ?_⟩, ?_⟩ <;> decide +kernel

theorem meets_PostRaisesTheCount :
    let s (d : DevState) := { listening with dev := d }.modSignal 3 fun x => { x with count := 15 }
    let full : State := { s .run with queue := ⟨List.replicate 8 .cte, [], none⟩ }
    (listening.signal 3).count + 15 ≤ 15 ∧ 15 < ((s .run).signal 3).count + 1 ∧
    { s .run with overflowMask := 1 }.overflowMask ≠ 0 ∧ (s .run).overflowMask = 0 ∧ (s .run).owed = [] ∧
    (s .run).dev = .run ∧ (s .drain).dev = .drain ∧ (s .run).queue.reserved.length = 0 ∧
    ¬ full.queue.reserved.length < 8 ∧ (listening.signal 3).waiters = [0] ∧
    (listening.seq 0).sq = .wait .cond := by decide +kernel

theorem meets_ClearSignalClearsTheCount :
    takesKind (taking one) (cmd 10 [15]) 10 ∧ (byteAt (cmd 10 [15]) 1).toNat ≤ 1 ∧ zeroBytes (cmd 10 [15]) 5 32 = true ∧
    (byteAt (cmd 10 [15]) 4).toNat = (15 : SignalNo).val ∧ zeroBytes (cmd 10 [16]) 5 32 = true ∧
    15 < (byteAt (cmd 10 [16]) 4).toNat := by
  refine ⟨⟨takes_taking, ?_⟩, ?_⟩ <;> decide +kernel

theorem meets_RendezvousOpensAndCloses :
    let r (m : Byte) := cmd 11 [7, m]
    let e (x : RdvState) (arrived : BitVec 4) := (one.modEntry 7 fun _ => ⟨x, 3, arrived, 0, 0⟩).entry 7
    takes (taking one) ∧ byteAt (r 15) 0 = 11 ∧ (byteAt (r 15) 1).toNat ≤ 1 ∧
    (byteAt (r 15) 4).toNat = (7 : EntryNo).val ∧
    zeroBytes (r 15) 6 32 = true ∧ (byteAt (r 15) 5).toNat = 15 ∧ (byteAt (r 1) 5).toNat = 1 ∧
    (byteAt (r 0) 5).toNat = 0 ∧ 15 < (byteAt (r 16) 5).toNat ∧ byteAt (cmd 12 [7]) 0 = 12 ∧
    zeroBytes (cmd 12 [7]) 5 32 = true ∧
    (one.entry 7).state = .closed ∧ (e .opened 1).arrived ≠ 0 ∧ (e .opened 0).arrived = 0 ∧
    (e .broken 0).state = .broken := by
  refine ⟨takes_taking, ?_⟩; decide +kernel

theorem meets_HaltActsByState :
    let r (k : Byte) := cmd 13 [0, k]
    takesKind (taking one) (r 1) 13 ∧ takesKind (taking tracking) (r 1) 13 ∧ (byteAt (r 1) 1).toNat ≤ 1 ∧
    (byteAt (r 1) 4).toNat = (0 : Axis).val ∧ zeroBytes (r 1) 6 32 = true ∧ (byteAt (r 1) 5).toNat ≤ 1 ∧
    1 < (byteAt (r 2) 5).toNat ∧ (idle.seq 0).sq = .off ∧ ((window .halted [] one).seq 0).sq = .halted ∧
    ((window .halting [] one).seq 0).sq = .halting ∧ live tracking 0 := by
  refine ⟨⟨takes_taking, ?_⟩, ⟨takes_tracking, ?_⟩, ?_, ?_, ?_, ?_, ?_, ?_, ?_, ?_, .inr (.inr ?_)⟩ <;> decide +kernel

theorem meets_ResumeKeepsOrFlushes :
    let r (m : Byte) := cmd 14 [0, m]
    let s (w : List Entry) := window .halted w one
    takesKind (taking one) (r 1) 14 ∧ (byteAt (r 1) 1).toNat ≤ 1 ∧ (byteAt (r 1) 4).toNat = (0 : Axis).val ∧
    zeroBytes (r 1) 6 32 = true ∧ byteAt (r 0) 5 = 0 ∧ byteAt (r 1) 5 = 1 ∧ 1 < (byteAt (r 2) 5).toNat ∧
    { one with dev := .drain }.dev = .drain ∧ (one.seq 0).sq ≠ .halted ∧ ((s []).seq 0).sq = .halted ∧
    (s []).dev ≠ .drain ∧ (s []).stopLineActive = false ∧ ((s []).seq 0).window = [] ∧
    ((s [entry (body .mark 0 .afterPrevious) (.pending .notArmed)]).seq 0).window ≠ [] ∧
    ((s []).modLine 0 fun l => { l with stopAll := some .soft, filtered := true }).stopLineActive = true := by
  refine ⟨⟨takes_taking, ?_⟩, ?_⟩ <;> decide +kernel

theorem meets_ArmCaptureStoresItsConfiguration :
    let r (g : Byte) := cmd 15 [3, 11, g, 3, 1]
    takesKind (taking one) (r 3) 15 ∧ (byteAt (r 3) 1).toNat ≤ 1 ∧ zeroBytes (r 3) 9 32 = true ∧
    (byteAt (r 3) 4).toNat = (3 : UnitNo).val ∧ (byteAt (r 3) 5).toNat = (11 : Line).val ∧ byteAt (r 3) 6 = 3 ∧
    (byteAt (r 3) 7).toNat = (3 : Axis).val ∧ byteAt (r 3) 8 = flagByte true ∧ (byteAt (r 0) 6).toNat = 0 ∧
    3 < (byteAt (r 4) 6).toNat ∧ one.cap 3 = .disarmed ∧
    (one.setCap 3 (.armed ⟨11, .both, 3, true⟩)).cap 3 ≠ .disarmed ∧ { one with dev := .drain }.dev = .drain := by
  refine ⟨⟨takes_taking, ?_⟩, ?_⟩ <;> decide +kernel

theorem meets_DisarmCaptureWithdrawsTheNotice :
    takesKind (taking one) (cmd 16 [3]) 16 ∧ (byteAt (cmd 16 [3]) 1).toNat ≤ 1 ∧ zeroBytes (cmd 16 [3]) 5 32 = true ∧
    (byteAt (cmd 16 [3]) 4).toNat = (3 : UnitNo).val ∧ 3 < (byteAt (cmd 16 [4]) 4).toNat ∧
    one.cap 3 = .disarmed ∧ (one.setCap 3 (.armed ⟨0, .both, 0, false⟩)).cap 3 = .armed ⟨0, .both, 0, false⟩ := by
  refine ⟨⟨takes_taking, ?_⟩, ?_⟩ <;> decide +kernel

/-- A0 waits to start its MOVE of section 5.11 toward the blocked positive side. -/
def blocked : State :=
  (window (.wait .place) [entry (body (.moveAbs 25000 10000) 1 .afterPrevious) (.pending .waitStart)]
    (withBank one)).modSeq 0 fun q => { q with linePos := true }

theorem meets_ArmingChecksPassExactly :
    (blocked.seq 0).candidate =
      some (entry (body (.moveAbs 25000 10000) 1 .afterPrevious) (.pending .waitStart)) ∧
    true ∈ blocked.sidesToward 0 (.moveAbs 25000 10000) ∧ (blocked.seq 0).blocked true = true ∧
    (blocked.mg 0).pos < 25000 ∧
    Holder.axis 0 ∈ { blocked with queue := ⟨[.axis 0], [], none⟩ }.queue.reserved ∧
    (((blocked.modSeq 0 fun q => q.setHead (.pending (.waitReject .directionBlocked))).seq 0).candidate.map
      (·.state)) = some (.pending (.waitReject .directionBlocked)) ∧
    (one.seq 0).candidate = none ∧ (decodeSegment 0).body = none ∧
    blocked.armChecks 0 (entry (body (.moveAbs 25000 10000) 1 .afterPrevious) (.pending .waitStart)).seg =
      some .directionBlocked ∧
    blocked.armChecks 0 (entry (body (.moveAbs (-1) 20000) 1 .afterPrevious) (.pending .waitStart)).seg = none := by
  decide +kernel

theorem meets_StartConditionsAreJudged :
    (blocked.seq 0).candidate.isSome = true ∧ (1 : Axis) ≠ 0 ∧
    ((listening.signal 3).waiters ≠ []) ∧ (one.entry 0).arrived ||| axisBit 0 ≠ (one.entry 0).members ∧
    ((one.modEntry 0 fun r => { r with members := 1 }).entry 0).members = axisBit 0 ∧
    (let s := (queueing .cond .waitCond 0 one).modEntry 2 fun _ => ⟨.opened, 3, 2, 0, 0⟩;
      (s.entry 2).arrived ||| axisBit 0 = (s.entry 2).members ∧ inSet 1 (s.entry 2).members = true ∧
      (s.seq 1).sq = .wait .cond ∧ (s.seq 1).candidate.isSome = true ∧ (1 : Axis) ≠ 0 ∧
      inSet 3 (s.entry 2).members = false ∧ (3 : Axis) ≠ 0) ∧
    (if true then (0 : Int) ≤ (one.mg 0).pos else (one.mg 0).pos ≤ 0) ∧
    ¬ (if true then (1 : Int) ≤ (one.mg 0).pos else (one.mg 0).pos ≤ 1) := by decide +kernel

theorem meets_StartEventActivatesTheCandidate :
    let b := body .mark 0 (.waitSignal 3)
    let w (n : Nat) := (window (.wait .place) [entry b (.pending .waitStart)] one).modSignal 3 fun _ => ⟨n, [0]⟩
    (blocked.seq 0).candidate.isSome = true ∧
    (entry (body (.moveAbs 25000 10000) 1 .afterPrevious) (.pending .waitStart)).seg.bankUse = some 1 ∧
    (listening.seq 0).candidate = some (entry b (.pending .waitCond)) ∧
    (entry (body (.dwell 2147483647) 0 .afterPrevious) (.pending .waitStart)).seg.bankUse = none ∧
    blocked.repeatChecks 0 (.moveAbs 25000 10000) = some .directionBlocked ∧
    (let s := queueing .place .waitStart 2 one;
      (s.seq 0).candidate = some (entry b (.pending .waitStart)) ∧ (s.signal 3).waiters.head? = some 0 ∧
      ((s.signal 3).waiters.filter (· != 0)).head? = some 1 ∧ 1 < (s.signal 3).count ∧
      (s.seq 1).sq = .wait .cond) ∧
    (∀ n ∈ [0, 1], ((w n).seq 0).candidate = some (entry b (.pending .waitStart)) ∧
      (w n).repeatChecks 0 b.work = none ∧ ((w n).signal 3).count = n) := by decide +kernel

theorem meets_CompletionEventInItsOrder :
    (tracking.seq 0).activeEntry = some (entry (body (.moveAbs 20000 10000) 1 .afterPrevious) (.active none)) ∧
    (tracking.seq 0).window.tail = [] ∧ (∀ r, Work.moveAbs 20000 10000 ≠ .run r true) := by
  refine ⟨?_, ?_, nofun⟩ <;> decide +kernel

/-- A0 searches home in the positive direction at 5000 (section 4.5), its home point fixed or not. -/
def homing (p : Option Int) : State :=
  moving true 5000 (.velocity 5000) (window .run
    [entry (body (.home 100 5000 true true) 1 .afterPrevious) (.active (some ⟨.searchBack, false, p, none⟩))] one)

/-- The event of the MG at a RUN and at a HOME that are active. -/
theorem meets_StepMovesByOne_kinds :
    let s := window .run [entry (body (.run 100 false) 1 .afterPrevious) (.active none)] one
    let h := homing (some 1200)
    (s.seq 0).sq = .run ∧ s.activeBody 0 = some (body (.run 100 false) 1 .afterPrevious) ∧
    (h.seq 0).sq = .run ∧ h.activeBody 0 = some (body (.home 100 5000 true true) 1 .afterPrevious) ∧
    (h.seq 0).homing = some ⟨.searchBack, false, some 1200, none⟩ := by decide +kernel

theorem meets_HomeEdgeAndItsReReference :
    let m := (homing none).mg 0
    let slow := (homing none).modMg 0 fun m => { m with profile := { m.profile with vstop := 5000 } }
    let at0 (p : HomePhase) := (homing none).modSeq 0 fun q => q.setHead (.active (some ⟨p, false, none, none⟩))
    let line := (at0 .clear).modAxis 0 fun x => { x with cfg := { x.cfg with homeLine := some 11 } }
    ((homing none).seq 0).homing = some ⟨.searchBack, false, none, none⟩ ∧
    ((m.profile.vstop * m.profile.vstop : Nat) : Rat) < m.speedSq ∧
    (slow.mg 0).speedSq ≤ (((slow.mg 0).profile.vstop * (slow.mg 0).profile.vstop : Nat) : Rat) ∧
    (slow.seq 0).homing = some ⟨.searchBack, false, none, none⟩ ∧
    ((homing (some 1200)).seq 0).homing = some ⟨.searchBack, false, some 1200, none⟩ ∧
    posMin ≤ 100 + (m.pos - 1200) ∧ 100 + (m.pos - 1200) ≤ posMax ∧ posMax < posMax + (m.pos - (-1)) ∧
    (one.mg 0).motion = .still ∧ m.motion ≠ .still ∧ one.levelOf (one.cfg 0).homeLine = false ∧
    (line.cfg 0).homeLine = some 11 ∧ (line.seq 0).homing = some ⟨.clear, false, none, none⟩ ∧
    line.activeBody 0 = some (body (.home 100 5000 true true) 1 .afterPrevious) ∧
    (line.mg 0).goal = .velocity 5000 ∧ (one.seq 0).homing = none ∧
    (line.modLine 11 fun l => { l with filtered := true }).levelOf (line.cfg 0).homeLine = true := by
  decide +kernel

theorem meets_HaltCauseByState : live tracking 0 ∧ live one 0 ∧ (tracking.seq 0).activeEntry.isSome = true ∧
    (one.seq 0).activeEntry = none ∧ Holder.axis 0 ∈ tracking.queue.reserved ∧
    { one with dev := .fault }.dev ≠ .run ∧ { one with dev := .fault }.dev ≠ .drain ∧ one.owed = [] ∧
    one.dev = .run ∧ one.queue.reserved.length + one.queue.filled.length < 8 ∧ one.queue.writing = none ∧
    (∃ o ∈ { one with owed := [.axisHalted 0 .host none 0 0 0] }.owed, isHaltNotice 0 o = true) ∧
    ((window .halting [] one).seq 0).sq = .halting ∧ ((window .halted [] one).seq 0).sq = .halted ∧
    (one.seq 1).sq = .off ∧ rdvOk one ∧ windowOk one := by
  refine ⟨.inr (.inr ?_), .inl ?_, ?_, ?_, ?_, ?_, ?_, ?_, ?_, ?_, ?_, ?_, ?_, ?_, ?_, inv_one.rdv,
    inv_one.window⟩ <;> decide +kernel

/-- Entry 2 with A0, which is blocked, and A1, both members arrived. -/
def meeting : State := blocked.modEntry 2 fun _ => ⟨.opened, 3, 3, 0, 0⟩

/-- A halt cause of A0 alone, with A1 arrived at an entry of both. -/
theorem meets_HaltCauseByState_group : live meeting 0 ∧ rdvOk meeting ∧ (meeting.entry 2).state = .opened ∧
    inSet 0 (meeting.entry 2).members = true ∧ inSet 1 (meeting.entry 2).arrived = true := by
  refine ⟨.inr (.inl ⟨.place, ?_⟩), ?_, ?_⟩
  · decide +kernel
  · unfold rdvOk entryOk; decide +kernel
  · decide +kernel

/-- The halt of A0, which waits at the head of a list with A1 behind it, under a BARRIER that names it and not
A1; its halt at an entry of its own arrival; and a BARRIER that names A1, which the halt of A0 halts with GROUP. -/
theorem meets_HaltCauseByState_withdrawals :
    let s := queueing .place .waitStart 1 one
    let b : BarrierRec := (taking s).barrierRec (cmd 5 [1]) 0 1
    let t : State := { taking s with cte := .barrier b, claims := [.axis 0] }
    let own := meeting.modEntry 2 fun _ => ⟨.opened, 3, 1, 0, 0⟩
    (s.seq 0).sq = .wait .place ∧ (s.signal 3).waiters.head? = some 0 ∧
    ((s.signal 3).waiters.filter (· != 0)).head? = some 1 ∧ 0 < (s.signal 3).count ∧
    (s.seq 1).sq = .wait .cond ∧ (s.seq 1).candidate.isSome = true ∧ t.claims = [.axis 0] ∧
    t.cte = .barrier b ∧ b.axes.getLsbD 0 = true ∧ b.axes.getLsbD 1 = false ∧ Holder.cte ∈ t.queue.reserved ∧
    HaltReason.host ≠ .drain ∧ (∀ e : EntryNo, (t.entry e).state = .closed) ∧
    (own.entry 2).state = .opened ∧ inSet 0 (own.entry 2).members = true ∧
    (∀ c : Axis, inSet c (own.entry 2).arrived = true → c = 0) ∧ (own.entry 2).arrived ≠ 0 ∧
    { meeting with cte := .barrier { b with axes := 2 } }.cte = .barrier { b with axes := 2 } ∧
    ({ b with axes := 2 } : BarrierRec).axes.getLsbD 1 = true := by decide +kernel

/-- R147 and R36: the halt of A0 ends the BARRIER with status 9 and byte 0, and A1 claims. -/
theorem test_halt_of_a_waiter_in_a_barrier :
    let s := taking (queueing .place .waitStart 1 one)
    let b : BarrierRec := s.barrierRec (cmd 5 [1]) 0 1
    let t := { s with cte := .barrier b, claims := [.axis 0] }.haltCause 0 .host .soft false
    t.queue.filled.map (fun c => (c.status, c.second, c.pos, c.aux)) = [(0x46, 0, 0, 0), (9, 0, 1, 1)] ∧
    t.cte = .idle ∧ t.claims = [.axis 1] ∧ (t.signal 3).waiters = [1] ∧ (t.signal 3).count = 1 := by
  decide +kernel

theorem meets_RendezvousBreaksAndFires :
    (meeting.entry 2).state = .opened ∧ inSet 0 (meeting.entry 2).members = true ∧
    inSet 1 ((meeting.entry 2).arrived &&& ~~~axisBit 0) = true ∧ meeting.repeatAt 0 ≠ none ∧
    (0 : Axis) ∈ members (meeting.entry 2).members ∧ 2 ≤ (members (meeting.entry 2).members).length ∧
    (∀ a ∈ members (meeting.entry 2).members,
      (meeting.modSeq 0 fun q => { q with linePos := false }).repeatAt a = none) ∧
    members ((blocked.modEntry 2 fun _ => ⟨.opened, 1, 1, 0, 0⟩).entry 2).members = [0] ∧
    (blocked.modEntry 2 fun _ => ⟨.opened, 1, 1, 0, 0⟩).repeatAt 0 = some .directionBlocked ∧
    (∀ d : EntryNo, d ≠ 2 → (meeting.entry d).arrived &&& (meeting.entry 2).members = 0) ∧
    (meeting.seq 0).sq = .wait .place ∧ meeting.repeatAt 1 = none ∧
    ((blocked.seq 0).candidate.bind fun e => e.seg.body).isSome = true := by decide +kernel

theorem meets_ArbiterServesInItsOrder :
    let full : State := { one with queue := ⟨List.replicate 8 .cte, [], none⟩ }
    let c : CapConfig := ⟨6, .rise, 0, true⟩
    let p : CapPending := ⟨true, 2000, 2000, 0, 255⟩
    one.dev = .run ∧ State.reset.dev = .off ∧ 8 ≤ full.queue.reserved.length ∧
    { one with owed := [.signalOverflow] }.owed ≠ [] ∧ one.owed = [] ∧ { one with cte := .claim }.cte = .claim ∧
    one.cte ≠ .claim ∧ one.claims = [] ∧ meeting.need (.fire 2) = 2 ∧ one.need (.axis 0) = 1 ∧
    one.queue.reserved.length + one.queue.filled.length < 8 ∧
    { one with owed := [.axisHalted 0 .limitPos none 0 0 0] }.owed = [.axisHalted 0 .limitPos none 0 0 0] ∧
    { one with owed := [.drainFlush 3 4 65535 0] }.owed = [.drainFlush 3 4 65535 0] ∧
    { one with owed := [.capture 3] }.owed = [.capture 3] ∧
    (one.setCap 3 (.armedPending c p)).cap 3 = .armedPending c p ∧
    (one.setCap 3 (.spentPending c p)).cap 3 = .spentPending c p ∧
    one.claims = [] ∧ (one.addClaim (.axis 3)).claims = one.claims ++ [.axis 3] ∧
    ((one.addClaim (.axis 3)).addClaim (.fire 2)).claims = one.claims ++ [.axis 3, .fire 2] ∧
    (listening.seq 0).candidate = some (entry (body .mark 0 (.waitSignal 3)) (.pending .waitCond)) ∧
    (0 : Axis) ≠ 3 ∧ inSet 0 (meeting.entry 2).members = true ∧ (∀ d : Axis, ¬ d < 0) := by
  decide +kernel

/-- Two completions at one step (R155): A0's post to signal 3 lets A3 claim, A1's post to signal 2 lets A2 claim,
and A2 stands first. -/
theorem test_claims_of_one_step :
    let wait (a : Axis) (n : SignalNo) (s : State) : State := (s.modSeq a fun q => { q with
      sq := .wait .cond, window := [entry (body .mark 0 (.waitSignal n)) (.pending .waitCond)] }).modSignal n
        fun _ => ⟨0, [a]⟩
    ((wait 3 3 (wait 2 2 idle)).atOneStep
      [(0, fun s => s.postSignal 3 1), (1, fun s => s.postSignal 2 1)]).claims = [.axis 2, .axis 3] := by
  decide +kernel

/-- One limit edge halts A0 and A1, which head the lists of signals 3 and 2 (R36, R93): A3 and A2 behind them
claim, and A2 stands first (R155). -/
theorem test_claims_of_one_limit_edge :
    let wait (a : Axis) (c : WaitCause) (n : SignalNo) (s : State) : State := s.modSeq a fun x => { x with
      sq := .wait c, window := [entry (body .mark 0 (.waitSignal n)) (.pending .waitCond)] }
    let head (a b : Axis) (n : SignalNo) (s : State) : State :=
      ((wait b .cond n (wait a .place n s)).modAxis a fun x => { x with
        cfg := { config with limitPos := some 5 }
        mg := { x.mg with motion := .hold, positive := true, speedSq := 1000000 } }).modSignal n
          fun _ => ⟨1, [a, b]⟩
    let s := (head 1 2 2 (head 0 3 3 idle)).modLine 5 fun x => { x with pin := true }
    (s.filteredEdge 5).claims = [.axis 2, .axis 3] ∧ ((s.filteredEdge 5).seq 0).sq = .halting ∧
      ((s.filteredEdge 5).seq 1).sq = .halting := by
  decide +kernel

theorem meets_DiscardAccountsForItsRecords :
    (one.ring 0).report = .idle ∧ ((one.modRing 0 fun r => { r with report := .writing 0 true }).ring 0).report =
      .writing 0 true ∧ activeOk one ∧ usesOk one :=
  ⟨by decide +kernel, by decide +kernel, inv_one.active, inv_one.uses⟩

end Sys2Proof.Tests
end

