-- ==== Sys2Proof/Proofs/Interrupt.lean ====
section
/-! The acknowledge of the interrupt moderator: when a write of INTS is one, what the write does, and the
IRQ line (R161, R162). -/

namespace Sys2Proof.Proofs

open Sys2Proof.Machine Sys2Proof.Laws

/-! ### A write of INTS -/

theorem setsCause_iff (w : Word) :
    setsCause w = true ↔ w.getLsbD 8 = true ∨ w.getLsbD 9 = true ∨ w.getLsbD 10 = true := by
  simp [setsCause, or_assoc]

theorem not_setsCause_iff (w : Word) :
    ¬ setsCause w = true ↔ w.getLsbD 8 = false ∧ w.getLsbD 9 = false ∧ w.getLsbD 10 = false := by
  simp [setsCause_iff]

theorem intsWrite_of_setsCause (s : State) {w : Word} (h : setsCause w = true) :
    s.intsWrite w = some { s with moderator := s.moderator.acknowledge w } := if_pos h

theorem intsWrite_of_not_setsCause (s : State) {w : Word} (h : ¬ setsCause w = true) :
    s.intsWrite w = none := if_neg h

/-! ### The command -/

theorem exec_intsAcknowledge (w : Word) (s : State) :
    exec (.intsAcknowledge w) s = s.event fun s => s.intsWrite w := rfl

/-- The DSC acknowledges in every device state: only a held RESET line shuts the write out (R134). -/
theorem exec_intsAcknowledge_of_setsCause {s : State} {w : Word} (hr : s.resetHeld = false)
    (h : setsCause w = true) :
    exec (.intsAcknowledge w) s =
      .next (State.finish { s with moderator := s.moderator.acknowledge w }) := by
  rw [exec_intsAcknowledge]
  exact event_some s hr (intsWrite_of_setsCause s h)

theorem exec_intsAcknowledge_of_not_setsCause (s : State) {w : Word} (h : ¬ setsCause w = true) :
    exec (.intsAcknowledge w) s = .next s := by
  rw [exec_intsAcknowledge]
  exact event_none s (intsWrite_of_not_setsCause s h)

/-! ### The IRQ line -/

theorem irq_eq_causes (s : State) :
    s.irq = (s.moderator.causeCount || s.moderator.causeHoldoff || s.moderator.causeDevice) := rfl

/-! ### The obligation -/

/-- Settles O15, by the two cases of a write of INTS: it names a cause, or it names none. -/
theorem acknowledgeClearsCauses : Obligations.AcknowledgeClearsCauses := by
  intro s w hr
  refine ⟨fun hw => ⟨?_, irq_eq_causes _⟩, fun h8 h9 h10 => ?_⟩
  · exact exec_intsAcknowledge_of_setsCause hr ((setsCause_iff w).2 hw)
  · exact exec_intsAcknowledge_of_not_setsCause s ((not_setsCause_iff w).2 ⟨h8, h9, h10⟩)

end Sys2Proof.Proofs
end

/-! The host index of CPL: when the CU accepts a written value, and what a write of CACK does (R157, R170). -/

namespace Sys2Proof.Proofs

open Sys2Proof.Machine Sys2Proof.Laws

/-! ### Acceptance -/

theorem active_iff (s : State) : s.active = true ↔ s.dev = .run ∨ s.dev = .drain := by
  simp [State.active]

theorem cplRing_accepts_iff (c : CplRing) (i : Nat) :
    c.accepts i = true ↔ i < 2 * c.size ∧
      (i + 2 * c.size - c.host) % (2 * c.size) ≤ (c.prod + 2 * c.size - c.host) % (2 * c.size) := by
  rw [CplRing.accepts, Bool.and_eq_true, decide_eq_true_iff, decide_eq_true_iff, CplRing.outstanding]

/-- R170's test of a write of CACK: the CU judges in DS_RUN and DS_DRAIN only, and by the two bounds of R157. -/
theorem cack_accepted_iff (s : State) (i : Nat) :
    (s.active && s.cpl.accepts i) = true ↔
      (s.dev = .run ∨ s.dev = .drain) ∧ i < 2 * s.cpl.size ∧
        (i + 2 * s.cpl.size - s.cpl.host) % (2 * s.cpl.size) ≤
          (s.cpl.prod + 2 * s.cpl.size - s.cpl.host) % (2 * s.cpl.size) := by
  rw [Bool.and_eq_true, active_iff, cplRing_accepts_iff]

/-! ### The write and its command -/

theorem cackWrite_of_accepted (s : State) {w : Word}
    (h : (s.active && s.cpl.accepts (cackIndex w)) = true) :
    s.cackWrite w = some { s with cpl := { s.cpl with host := cackIndex w } } := if_pos h

theorem cackWrite_of_not_accepted (s : State) {w : Word}
    (h : ¬ (s.active && s.cpl.accepts (cackIndex w)) = true) : s.cackWrite w = none := if_neg h

theorem exec_cack (w : Word) (s : State) : exec (.cack w) s = s.event fun s => s.cackWrite w := rfl

/-- An accepted write is an event of its own: a CPL write and waiting places may follow (R155, R170). -/
theorem exec_cack_of_accepted {s : State} {w : Word} (hr : s.resetHeld = false)
    (h : (s.active && s.cpl.accepts (cackIndex w)) = true) :
    exec (.cack w) s = .next (State.finish { s with cpl := { s.cpl with host := cackIndex w } }) := by
  rw [exec_cack]
  exact event_some s hr (cackWrite_of_accepted s h)

theorem exec_cack_of_not_accepted (s : State) {w : Word}
    (h : ¬ (s.active && s.cpl.accepts (cackIndex w)) = true) : exec (.cack w) s = .next s := by
  rw [exec_cack]
  exact event_none s (cackWrite_of_not_accepted s h)

/-! ### The obligation -/

/-- Settles O14, by the two cases of R170's test: the CU accepts the written value, or it ignores it. -/
theorem cackMovesTheHostIndex : Obligations.CackMovesTheHostIndex := by
  intro s w hr
  dsimp only
  split
  case isTrue h => exact exec_cack_of_accepted hr ((cack_accepted_iff s _).2 h)
  case isFalse h => exact exec_cack_of_not_accepted s (mt (cack_accepted_iff s _).1 h)

end Sys2Proof.Proofs

/-! What `Does` keeps, field by field. -/

namespace Sys2Proof.Laws.Does

open Sys2Proof.Machine Sys2Proof.Safety

variable {s t : State} (h : Does s t)
include h

theorem pending : t.pending = s.pending := congrArg Kept.pending h.kept
theorem time : t.time = s.time := congrArg Kept.time h.kept
theorem resetHeld : t.resetHeld = s.resetHeld := congrArg Kept.resetHeld h.kept
theorem enable : t.enable = s.enable := congrArg Kept.enable h.kept
theorem faultCode : t.faultCode = s.faultCode := congrArg Kept.faultCode h.kept
theorem faultSource : t.faultSource = s.faultSource := congrArg Kept.faultSource h.kept
theorem postReg : t.postReg = s.postReg := congrArg Kept.postReg h.kept
theorem lines : t.lines = s.lines := congrArg Kept.lines h.kept
theorem line (l : Line) : t.line l = s.line l := by simp only [State.line, h.lines]
theorem cfg (a : Axis) : t.cfg a = s.cfg a := congrFun (congrArg Kept.cfgs h.kept) a
theorem encoder (a : Axis) : (t.fbm a).count = (s.fbm a).count ∧ (t.fbm a).encA = (s.fbm a).encA ∧
    (t.fbm a).encB = (s.fbm a).encB := by
  have e := congrFun (congrArg Kept.encoders h.kept) a
  obtain ⟨h1, h2⟩ := Prod.mk.inj e
  exact ⟨h1, Prod.mk.inj h2⟩
theorem profile (b : BankNo) : (t.bank b).profile = (s.bank b).profile ∧
    (t.bank b).written = (s.bank b).written := Prod.mk.inj (congrFun (congrArg Kept.profiles h.kept) b)

end Sys2Proof.Laws.Does

/-! What every command does to the invariant and to the settings of the part: each command is an event with an
effect, apart from the hard resets and the two notes that a held RESET line lets pass (R134). -/

namespace Sys2Proof.Proofs

open Sys2Proof.Machine Sys2Proof.Safety Sys2Proof.Laws

/-! ### Each command as an event -/

/-- The effect of a command at its event, before what follows every event; the hard resets are no events. -/
def effect : Instr → State → Option State
  | .powerOn, _ | .resetLine _, _ | .resetRelease, _ => none
  | .softReset w, s => some (s.ctrlWrite (w ||| 2#32))
  | .enableSet w, s => some (s.ctrlWrite ((w ||| 1#32) &&& ~~~2#32))
  | .enableClear w, s => some (s.ctrlWrite (w &&& ~~~3#32))
  | .stopAllSoft w, s => some (s.ctrlWrite ((w ||| 4#32) &&& ~~~10#32))
  | .stopAllHard w, s => some (s.ctrlWrite ((w ||| 8#32) &&& ~~~2#32))
  | .setupLoWrite w, s => s.setupLoWrite w
  | .setupHiWrite w, s => s.setupHiWrite w
  | .post w, s => some (s.postWrite w)
  | .cack w, s => s.cackWrite w
  | .intsAcknowledge w, s => s.intsWrite w
  | .registerWrite o w, s => s.writeReg o w
  | .rawChange l high, s => s.rawChanged l high
  | .filterExpiry l, s => s.filterExpired l
  | .encoderChange a x y, s => s.encoderChanged a x y
  | .mgStep a, s => if (s.mg a).stepNext then some (s.stepped a) else none
  | .profilePhaseEnd a, s => if (s.mg a).phaseEndNext then some (s.phaseEnded a) else none
  | .dwellExpiry a, s => s.dwellExpired a
  | .holdoffExpiry, s => s.holdoffExpired
  | .fetchCompletion a r, s => s.fetchCompleted a r
  | .setupReadCompletion b, s => s.setupRead b
  | .cplWriteCompletion, s =>
    if s.active && s.queue.writing.isSome then some s.completeCplWrite else none
  | .reportWriteCompletion r, s =>
    if (s.ring r).report != .idle then some (s.modRing r Ring.completeReport) else none
  | .busFault t, s => if s.inProgress t then some (s.busFault t) else none
  | .configAxis r, s =>
    s.takeRecord 1 r fun s => s.runCommand r (withArgs (argConfigAxis r) configAxis)
  | .configLine r, s =>
    s.takeRecord 2 r fun s => s.runCommand r (withArgs (argConfigLine r) configLine)
  | .setPosition r, s =>
    s.takeRecord 3 r fun s => s.runCommand r (withArgs (argSetPosition r) setPosition)
  | .setOutputs r, s =>
    s.takeRecord 4 r fun s => s.runCommand r (withArgs (argSetOutputs r) setOutputs)
  | .barrier r, s =>
    match argBarrier r with
    | some m => s.takeRecord 5 r fun s => s.runBarrier r m
    | none => s.takeRecord 5 r fun s => s.runCommand r fun s => (s, .bare .badField)
  | .queryAxis r, s => s.takeRecord 6 r fun s =>
    s.runCommand r (withArgs (argQueryAxis r) fun x s => (s, s.queryAxis x.1 x.2))
  | .queryLines r, s => s.takeRecord 7 r fun s =>
    s.runCommand r (withArgs (argQueryLines r) fun _ s => (s, s.queryLines))
  | .writeBank r, s =>
    s.takeRecord 8 r fun s => s.runCommand r (withArgs (argWriteBank r) writeBank)
  | .postSignal r, s =>
    s.takeRecord 9 r fun s => s.runCommand r (withArgs (argPostSignal r) postSignal)
  | .clearSignal r, s =>
    s.takeRecord 10 r fun s => s.runCommand r (withArgs (argClearSignal r) clearSignal)
  | .openRendezvous r, s =>
    s.takeRecord 11 r fun s => s.runCommand r (withArgs (argOpenRendezvous r) openRendezvous)
  | .closeRendezvous r, s =>
    s.takeRecord 12 r fun s => s.runCommand r (withArgs (argCloseRendezvous r) closeRendezvous)
  | .halt r, s => s.takeRecord 13 r fun s => s.runCommand r (withArgs (argHalt r) halt)
  | .resume r, s => s.takeRecord 14 r fun s => s.runCommand r (withArgs (argResume r) resume)
  | .armCapture r, s =>
    s.takeRecord 15 r fun s => s.runCommand r (withArgs (argArmCapture r) armCapture)
  | .disarmCapture r, s =>
    s.takeRecord 16 r fun s => s.runCommand r (withArgs (argDisarmCapture r) disarmCapture)
  | .unknownCommandKind r, s =>
    if s.ctlReady && !namesCommand r then some (s.badCommand r) else none

theorem exec_barrier (r : Record) (s : State) : exec (.barrier r) s = s.event (effect (.barrier r)) := by
  change execBarrier r s = _
  have e : effect (.barrier r) = fun s => effect (.barrier r) s := rfl
  rw [e]
  unfold execBarrier
  simp only [effect]
  cases argBarrier r <;> rfl

/-- A command that is no hard reset is an event; the two notes of R125 and R111 apart, which are taken while
the RESET line is held. -/
theorem exec_eq_event (c : Instr) (s : State) (hc : isHardReset c = false)
    (hl : s.resetHeld = false ∨ (∀ l h, c ≠ .rawChange l h) ∧ ∀ a x y, c ≠ .encoderChange a x y) :
    exec c s = s.event (effect c) := by
  cases c with
  | powerOn => cases hc
  | resetLine => cases hc
  | resetRelease => cases hc
  | barrier r => exact exec_barrier r s
  | rawChange l h =>
    have hr : s.resetHeld = false := hl.resolve_right fun k => k.1 l h rfl
    change execRawChange l h s = _
    rw [execRawChange, hr]; rfl
  | encoderChange a x y =>
    have hr : s.resetHeld = false := hl.resolve_right fun k => k.2 a x y rfl
    change execEncoderChange a x y s = _
    rw [execEncoderChange, hr]; rfl
  | _ => rfl

/-- What a command's outcome is: the state after a hard reset, a note taken while the RESET line is held, no
change, or the effect of its event and what follows it. -/
theorem exec_cases (c : Instr) (s : State) :
    ∃ t, exec c s = .next t ∧
      ((isHardReset c = true ∧ ∃ held, t = s.hardReset held) ∨ t = s ∨
        (∃ l high, c = .rawChange l high ∧ s.resetHeld = true ∧ t = s.modLine l fun _ => .reset high) ∨
        (∃ a x y, c = .encoderChange a x y ∧ t = s.modFbm a fun _ => .reset x y) ∨
        (isHardReset c = false ∧ ∃ u, effect c s = some u ∧ t = u.finish)) := by
  have event (h : exec c s = s.event (effect c)) (hc : isHardReset c = false) : ∃ t, exec c s = .next t ∧
      (t = s ∨ ∃ u, effect c s = some u ∧ t = u.finish) := by
    rcases event_cases s (effect c) with ⟨k, _⟩ | ⟨u, hu, _, k⟩
    · exact ⟨s, h.trans k, .inl rfl⟩
    · exact ⟨u.finish, h.trans k, .inr ⟨u, hu, rfl⟩⟩
  by_cases hc : isHardReset c = true
  · cases c with
    | powerOn => exact ⟨_, rfl, .inl ⟨rfl, _, rfl⟩⟩
    | resetLine b => exact ⟨_, rfl, .inl ⟨rfl, _, rfl⟩⟩
    | resetRelease =>
      refine ⟨_, rfl, ?_⟩
      split
      · exact .inl ⟨rfl, _, rfl⟩
      · exact .inr (.inl rfl)
    | _ => cases hc
  · have hc : isHardReset c = false := by simpa using hc
    by_cases hr : s.resetHeld = false
    · obtain ⟨t, ht, k | ⟨u, hu, k⟩⟩ := event (exec_eq_event c s hc (.inl hr)) hc
      · exact ⟨t, ht, .inr (.inl k)⟩
      · exact ⟨t, ht, .inr (.inr (.inr (.inr ⟨hc, u, hu, k⟩)))⟩
    · have hr : s.resetHeld = true := by simpa using hr
      cases c with
      | rawChange l h =>
        refine ⟨s.modLine l fun _ => .reset h, ?_, .inr (.inr (.inl ⟨l, h, rfl, hr, rfl⟩))⟩
        change execRawChange l h s = _
        rw [execRawChange, hr]; rfl
      | encoderChange a x y =>
        refine ⟨s.modFbm a fun _ => .reset x y, ?_, .inr (.inr (.inr (.inl ⟨a, x, y, rfl, rfl⟩)))⟩
        change execEncoderChange a x y s = _
        rw [execEncoderChange, hr]; rfl
      | _ =>
        obtain ⟨t, ht, k | ⟨u, hu, k⟩⟩ := event (exec_eq_event _ s hc (.inr ⟨by simp, by simp⟩)) hc
        · exact ⟨t, ht, .inr (.inl k)⟩
        · exact ⟨t, ht, .inr (.inr (.inr (.inr ⟨hc, u, hu, k⟩)))⟩

/-- A hard reset is no event. -/
theorem effect_hardReset {c : Instr} (s : State) (h : isHardReset c = true) : effect c s = none := by
  cases c with
  | powerOn => rfl
  | resetLine released => rfl
  | resetRelease => rfl
  | _ => cases h

/-- A command whose event takes place. -/
theorem exec_some {c : Instr} {s t : State} (h : effect c s = some t) (hr : s.resetHeld = false) :
    exec c s = .next t.finish := by
  have hc : isHardReset c = false := by
    rw [← Bool.not_eq_true]
    intro k
    rw [effect_hardReset s k] at h
    cases h
  rw [exec_eq_event c s hc (.inl hr)]
  exact event_some s hr h

/-- A command whose event does not occur, or that the part ignores. -/
theorem exec_none {c : Instr} {s : State} (h : effect c s = none) (hc : isHardReset c = false)
    (hr : s.resetHeld = false) : exec c s = .next s := by
  rw [exec_eq_event c s hc (.inl hr)]
  exact event_none s h

/-! ### The invariant -/

theorem inv_badCommand {r : Record} {s : State} (i : Inv s) : Inv (s.badCommand r) := by
  unfold State.badCommand
  exact inv_runCommand s r _ id i

/-- A CTL record is taken, ends with BAD_COMMAND, or is not taken: where its run keeps the invariant, so does
the take. -/
theorem inv_takeRecord {k : Byte} {r : Record} {run : State → State} {s t : State} (i : Inv s)
    (hrun : Inv s → Inv (run s)) (h : s.takeRecord k r run = some t) : Inv t := by
  rcases takeRecord_cases s k r run with e | e | ⟨e, _⟩
  · simp [e] at h
  · rw [e] at h; cases h; exact inv_badCommand i
  · rw [e] at h; cases h; exact hrun i

theorem inv_withArgs {α : Type} {x : Option α} {f : α → State → State × Answer} {s : State}
    (h : ∀ x, Safety.Inv (f x s).1) (i : Safety.Inv s) : Safety.Inv (withArgs x f s).1 := by
  cases x with
  | none => exact i
  | some x => exact h x

/-- A CTL command that ends at its execution. -/
theorem inv_ctlCommand {α : Type} {k : Byte} {r : Record} {x : Option α}
    {f : α → State → State × Answer} {s t : State} (i : Inv s) (hf : ∀ (x : α) (s : State), Inv s → Inv (f x s).1)
    (h : s.takeRecord k r (fun s => s.runCommand r (withArgs x f)) = some t) : Inv t :=
  inv_takeRecord i (inv_runCommand s r _ fun j => inv_withArgs (fun x => hf x _ j) j) h

theorem inv_effect (c : Instr) {s t : State} (i : Inv s) (h : effect c s = some t) : Inv t := by
  cases c with
  | powerOn => cases h
  | resetLine => cases h
  | resetRelease => cases h
  | softReset w => cases h; exact inv_ctrlWrite s _ i
  | enableSet w => cases h; exact inv_ctrlWrite s _ i
  | enableClear w => cases h; exact inv_ctrlWrite s _ i
  | stopAllSoft w => cases h; exact inv_ctrlWrite s _ i
  | stopAllHard w => cases h; exact inv_ctrlWrite s _ i
  | setupLoWrite w => exact inv_setupLoWrite s w i h
  | setupHiWrite w => exact inv_setupHiWrite s w i h
  | post w => cases h; exact inv_postWrite s w i
  | cack w => exact inv_cackWrite s w i h
  | intsAcknowledge w => exact inv_intsWrite s w i h
  | registerWrite o w => exact inv_writeReg s o w i h
  | rawChange l high => exact inv_rawChanged s l high i h
  | filterExpiry l => exact inv_filterExpired s l i h
  | encoderChange a x y => exact inv_encoderChanged s a x y i h
  | mgStep a => obtain ⟨p, e⟩ := Option.ite_none_right_eq_some.1 h; rw [← Option.some.inj e]; exact (does_stepped s a p).inv i
  | profilePhaseEnd a =>
    obtain ⟨p, e⟩ := Option.ite_none_right_eq_some.1 h; rw [← Option.some.inj e]; exact (does_phaseEnded s a p).inv i
  | dwellExpiry a => exact inv_dwellExpired s a i h
  | holdoffExpiry => exact inv_holdoffExpired s i h
  | fetchCompletion a r => exact inv_fetchCompleted s a r i h
  | setupReadCompletion b => exact inv_setupRead s b i h
  | cplWriteCompletion =>
    obtain ⟨_, e⟩ := Option.ite_none_right_eq_some.1 h; rw [← Option.some.inj e]; exact (does_completeCplWrite s).inv i
  | reportWriteCompletion r =>
    obtain ⟨_, e⟩ := Option.ite_none_right_eq_some.1 h; rw [← Option.some.inj e]; exact (does_completeReport s r).inv i
  | busFault x => obtain ⟨_, e⟩ := Option.ite_none_right_eq_some.1 h; rw [← Option.some.inj e]; exact inv_busFault s x i
  | configAxis r => exact inv_ctlCommand i (fun x s => inv_configAxis s x) h
  | configLine r => exact inv_ctlCommand i (fun x s => inv_configLine s x) h
  | setPosition r => exact inv_ctlCommand i (fun x s => (does_setPositionCommand s x).inv) h
  | setOutputs r => exact inv_ctlCommand i (fun x s => (does_setOutputs s x).inv) h
  | barrier r =>
    simp only [effect] at h
    cases hm : argBarrier r with
    | none => rw [hm] at h; exact inv_takeRecord i (inv_runCommand s r _ id) h
    | some m => rw [hm] at h; exact inv_takeRecord i (inv_runBarrier s r m) h
  | queryAxis r => exact inv_ctlCommand i (fun _ _ => id) h
  | queryLines r => exact inv_ctlCommand i (fun _ _ => id) h
  | writeBank r => exact inv_ctlCommand i (fun x s => inv_writeBank s x) h
  | postSignal r => exact inv_ctlCommand i (fun x s => (does_postSignalCommand s x).inv) h
  | clearSignal r => exact inv_ctlCommand i (fun x s => (does_clearSignal s x).inv) h
  | openRendezvous r => exact inv_ctlCommand i (fun x s => (does_openRendezvous s x).inv) h
  | closeRendezvous r => exact inv_ctlCommand i (fun x s => (does_closeRendezvous s x).inv) h
  | halt r => exact inv_ctlCommand i (fun x s => (does_halt s x).inv) h
  | resume r => exact inv_ctlCommand i (fun x s => (does_resume s x).inv) h
  | armCapture r => exact inv_ctlCommand i (fun x s => (does_armCapture s x).inv) h
  | disarmCapture r => exact inv_ctlCommand i (fun x s => (does_disarmCapture s x).inv) h
  | unknownCommandKind r =>
    have e : s.badCommand r = t := Option.some.inj (Option.ite_none_right_eq_some.1 h).2
    rw [← e]
    exact inv_badCommand i

theorem inv_exec (c : Instr) {s t : State} (i : Inv s) (h : exec c s = .next t) : Inv t := by
  obtain ⟨u, hu, k⟩ := exec_cases c s
  obtain rfl : u = t := by rw [hu] at h; cases h; rfl
  rcases k with ⟨_, held, e⟩ | e | ⟨l, high, _, _, e⟩ | ⟨a, x, y, _, e⟩ | ⟨_, v, hv, e⟩ <;> rw [e]
  · exact inv_hardReset s held
  · exact i
  · exact inv_modLine s l _ i
  · exact inv_modFbm s a _ i
  · exact (does_finish v).inv (inv_effect c i hv)

/-- The queue of waiting commands is no part of the invariant. -/
theorem inv_pending {s : State} (l : List Instr) (i : Inv s) : Inv { s with pending := l } :=
  inv_same i rfl rfl rfl (fun _ => Nat.le_refl _) (fun _ => rfl) (fun _ => rfl) fun _ => rfl

/-- Settles O4: on an empty queue the tick keeps the invariant, and otherwise the command at the front does. -/
theorem stepKeepsTheInvariant : Obligations.StepKeepsTheInvariant := by
  intro s t i h
  unfold step at h
  split at h
  · cases h; exact inv_tick s i
  · exact inv_exec _ (inv_pending _ i) h

/-- Settles O5: the state after reset is that of a hard reset. -/
theorem resetHasTheInvariant : Obligations.ResetHasTheInvariant := by
  have h : State.reset = State.reset.hardReset false := by decide +kernel
  unfold Obligations.ResetHasTheInvariant
  rw [h]
  exact inv_hardReset _ _

/-- Settles O1, by the definition of a step. -/
theorem stepRunsFrontCommand : Obligations.StepRunsFrontCommand := fun _ _ _ => rfl

end Sys2Proof.Proofs

/-! The configuration of the axes and lines and the values of the banks: each has one writer among the commands
(R140, R125, R75), and no command touches the queue of those that wait behind it. -/

namespace Sys2Proof.Proofs

open Sys2Proof.Machine Sys2Proof.Safety Sys2Proof.Laws

/-! ### What a command keeps apart from what it is there to write -/

/-- From `s` to `t`: the waiting commands stand, and the configurations and the values of the banks do where `c`
is not the command that writes them; a written bank stays written. -/
structure KeepsApart (c : Instr) (s t : State) : Prop where
  pending : t.pending = s.pending
  cfg : (∀ r, c ≠ .configAxis r) → ∀ a, t.cfg a = s.cfg a
  bank : (∀ r, c ≠ .writeBank r) → ∀ b, (t.bank b).profile = (s.bank b).profile ∧
    (t.bank b).written = (s.bank b).written
  written : ∀ b, (s.bank b).written = true → (t.bank b).written = true
  line : (∀ r, c ≠ .configLine r) → (∀ l h, c ≠ .rawChange l h) → (∀ l, c ≠ .filterExpiry l) →
    ∀ l, t.line l = s.line l
  lineCfg : (∀ r, c ≠ .configLine r) → ∀ l, (t.line l).activeLow = (s.line l).activeLow ∧
    (t.line l).filterTime = (s.line l).filterTime ∧ (t.line l).stopAll = (s.line l).stopAll

namespace KeepsApart

variable {c : Instr} {s t u : State}

theorem refl (c : Instr) (s : State) : KeepsApart c s s :=
  ⟨rfl, fun _ _ => rfl, fun _ _ => ⟨rfl, rfl⟩, fun _ => id, fun _ _ _ _ => rfl, fun _ _ => ⟨rfl, rfl, rfl⟩⟩

theorem trans (h : KeepsApart c s t) (k : KeepsApart c t u) : KeepsApart c s u where
  pending := k.pending.trans h.pending
  cfg n a := (k.cfg n a).trans (h.cfg n a)
  bank n b := ⟨(k.bank n b).1.trans (h.bank n b).1, (k.bank n b).2.trans (h.bank n b).2⟩
  written b w := k.written b (h.written b w)
  line x y z l := (k.line x y z l).trans (h.line x y z l)
  lineCfg n l :=
    have ⟨k1, k2, k3⟩ := k.lineCfg n l
    have ⟨h1, h2, h3⟩ := h.lineCfg n l
    ⟨k1.trans h1, k2.trans h2, k3.trans h3⟩

/-- A change of none of them. -/
theorem of_fields (hp : t.pending = s.pending) (hc : ∀ a, t.cfg a = s.cfg a)
    (hb : ∀ b, (t.bank b).profile = (s.bank b).profile ∧ (t.bank b).written = (s.bank b).written)
    (hl : t.lines = s.lines) : KeepsApart c s t where
  pending := hp
  cfg _ := hc
  bank _ := hb
  written b := by rw [(hb b).2]; exact id
  line _ _ _ l := by simp only [State.line, hl]
  lineCfg _ l := by simp only [State.line, hl, and_self]

/-- A change of other fields of the record. -/
theorem of_same (hp : t.pending = s.pending) (ha : t.axes = s.axes) (hb : t.banks = s.banks)
    (hl : t.lines = s.lines) : KeepsApart c s t :=
  of_fields hp (fun a => by simp only [State.cfg, State.axis, ha])
    (fun b => by simp only [State.bank, hb, and_self]) hl

theorem of_does (h : Does s t) : KeepsApart c s t :=
  of_fields h.pending h.cfg h.profile h.lines

theorem then_does (h : KeepsApart c s t) (k : Does t u) : KeepsApart c s u := h.trans (of_does k)

/-- A Feedback Monitor. -/
theorem modFbm (a : Axis) (f : FBM → FBM) : KeepsApart c s (s.modFbm a f) :=
  of_fields rfl (fun b => cfg_modFbm s a b f) (fun _ => ⟨rfl, rfl⟩) rfl

/-- A line that is not configured: at the events of its filter only. -/
theorem modLine (l : Line) (f : LineState → LineState)
    (hc : (∀ r, c ≠ .configLine r) → ((∀ l h, c ≠ .rawChange l h) → (∀ l, c ≠ .filterExpiry l) → False) ∧
      (f (s.line l)).activeLow = (s.line l).activeLow ∧ (f (s.line l)).filterTime = (s.line l).filterTime ∧
      (f (s.line l)).stopAll = (s.line l).stopAll) : KeepsApart c s (s.modLine l f) where
  pending := rfl
  cfg _ _ := rfl
  bank _ _ := ⟨rfl, rfl⟩
  written _ := id
  line x y z := ((hc x).1 y z).elim
  lineCfg n k := by
    rw [line_modLine]
    split
    · subst k; exact (hc n).2
    · exact ⟨rfl, rfl, rfl⟩

/-! ### The registers and the transfers -/

theorem of_reachTime (x : Time) : KeepsApart c s (s.reachTime x) := by
  unfold State.reachTime
  split
  · exact of_same rfl rfl rfl rfl
  · exact refl c s

theorem softReset : KeepsApart c s s.softReset := by
  unfold State.softReset
  refine then_does ?_ (does_forEach allAxes (fun a s => does_recomputeBlocks s a) _)
  exact of_fields rfl (fun a => by simp [State.cfg, State.axis, Vector.get_eq_getElem, AxisState.softReset])
    (fun b => by simp [State.bank, State.clearUses, Vector.get_eq_getElem]) rfl

theorem enableOn : KeepsApart c s s.enableOn := by
  unfold State.enableOn
  simp only
  split <;> exact of_same rfl rfl rfl rfl

theorem drainEvent : KeepsApart c s s.drainEvent := by
  unfold State.drainEvent
  have h : KeepsApart c s ({ s with dev := .drain, enable := false } : State).closeEntries :=
    of_same rfl rfl rfl rfl
  generalize ({ s with dev := .drain, enable := false } : State).closeEntries = u at h
  refine h.then_does ?_
  have h1 := does_forEach allAxes (fun a s => does_haltCause s a .drain .soft true) u
  have h2 := (h1.trans (does_forEach allAxes (fun a s => does_drainWindow s a) _)).trans (does_drainCte _)
  exact h2.trans (does_caps _ _)

theorem ctrlEnableField (on : Bool) : KeepsApart c s (s.ctrlEnableField on) := by
  unfold State.ctrlEnableField
  split
  · exact enableOn
  · exact refl c s
  · exact of_same rfl rfl rfl rfl
  · exact refl c s
  · exact drainEvent
  · exact refl c s
  · exact refl c s
  · exact of_same rfl rfl rfl rfl

theorem ctrlWrite (w : Word) : KeepsApart c s (s.ctrlWrite w) := by
  unfold State.ctrlWrite
  split
  · exact softReset
  · exact (of_does (does_ctrlStop s w)).trans (ctrlEnableField _)

theorem postWrite (w : Word) : KeepsApart c s (s.postWrite w) := by
  unfold State.postWrite State.judgePost
  dsimp only
  repeat' split
  all_goals exact of_same rfl rfl rfl rfl

theorem setupLoWrite {w : Word} (h : s.setupLoWrite w = some t) : KeepsApart c s t := by
  rw [← Option.some.inj (Option.ite_none_right_eq_some.1 h).2]; exact of_same rfl rfl rfl rfl

theorem setupHiWrite {w : Word} (h : s.setupHiWrite w = some t) : KeepsApart c s t := by
  rw [← Option.some.inj (Option.ite_none_right_eq_some.1 h).2]; exact of_same rfl rfl rfl rfl

theorem cackWrite {w : Word} (h : s.cackWrite w = some t) : KeepsApart c s t := by
  rw [← Option.some.inj (Option.ite_none_right_eq_some.1 h).2]; exact of_same rfl rfl rfl rfl

theorem intsWrite {w : Word} (h : s.intsWrite w = some t) : KeepsApart c s t := by
  rw [← Option.some.inj (Option.ite_none_right_eq_some.1 h).2]; exact of_same rfl rfl rfl rfl

theorem writeReg {o w : Word} (h : s.writeReg o w = some t) : KeepsApart c s t := by
  unfold State.writeReg at h
  split at h
  · rw [← Option.some.inj h]; exact ctrlWrite w
  · exact setupLoWrite h
  · exact setupHiWrite h
  · rw [← Option.some.inj h]; exact postWrite w
  · exact cackWrite h
  · exact intsWrite h
  · cases h

theorem setupRead {b : SetupBlock} (h : s.setupRead b = some t) : KeepsApart c s t := by
  unfold State.setupRead at h
  split at h
  · cases h
  · split at h
    · rw [← Option.some.inj h]; exact of_same rfl rfl rfl rfl
    · split at h
      · rw [← Option.some.inj h]; exact of_same rfl rfl rfl rfl
      · rw [← Option.some.inj h]
        have hl : KeepsApart c s (s.loadSetup (readSetup b)) := of_same rfl rfl rfl rfl
        exact hl.then_does ((does_entryStop _).trans (does_forEach _ (fun a s => does_testDeviation s a) _))

theorem busFault (x : Transfer) : KeepsApart c s (s.busFault x) := by
  unfold State.busFault
  refine then_does ?_ ((does_haltAll _ .bus .soft).trans (does_setDevice _))
  exact of_same rfl rfl rfl rfl

theorem fetchCompleted {a : Axis} {r : Record} (h : s.fetchCompleted a r = some t) : KeepsApart c s t := by
  unfold State.fetchCompleted at h
  split at h
  · cases h
  · rw [← Option.some.inj h]; exact of_same rfl rfl rfl rfl
  · rw [← Option.some.inj h]; exact of_does (does_joinRecord s a r ‹_›)

/-! ### The pins and the clocked blocks -/

theorem filteredEdge (l : Line) (hc : (∀ l h, c ≠ .rawChange l h) → (∀ l, c ≠ .filterExpiry l) → False) :
    KeepsApart c s (s.filteredEdge l) := by
  unfold State.filteredEdge
  have h : KeepsApart c s (s.modLine l fun x => { x with filtered := (s.line l).raw, pendingSince := none }) :=
    modLine l _ fun _ => ⟨hc, rfl, rfl, rfl⟩
  refine h.then_does ?_
  refine Does.trans ?_ (does_stopRole _ l _)
  refine Does.trans ?_ (does_forEach _ (fun u s => does_captureRole s l _ u) _)
  refine Does.trans ?_ (does_forEach _ (fun a s => does_inputRole s a l _) _)
  refine Does.trans (does_limitLevel _ l _) (does_atOneStep _ _ fun x h s => ?_)
  obtain ⟨a, _, rfl⟩ := List.mem_map.1 h
  exact does_homeRole s a l _

theorem rawChanged {l k : Line} {high v : Bool} (h : s.rawChanged l high = some t) :
    KeepsApart (.rawChange k v) s t := by
  have hc : (∀ l h, Instr.rawChange k v ≠ .rawChange l h) → (∀ l, Instr.rawChange k v ≠ .filterExpiry l) →
    False := fun n _ => n k v rfl
  unfold State.rawChanged at h
  split at h
  · cases h
  · rw [← Option.some.inj h]
    refine (modLine l (fun x => { x with pin := high }) fun _ => ⟨hc, rfl, rfl, rfl⟩).trans ?_
    unfold State.filterRaw
    split
    · exact modLine l _ fun _ => ⟨hc, rfl, rfl, rfl⟩
    · split
      · exact filteredEdge l hc
      · exact modLine l _ fun _ => ⟨hc, rfl, rfl, rfl⟩

theorem filterExpired {l k : Line} (h : s.filterExpired l = some t) : KeepsApart (.filterExpiry k) s t := by
  unfold State.filterExpired at h
  split at h
  · rw [← Option.some.inj h]
    exact (of_reachTime _).trans (filteredEdge l fun _ n => n k rfl)
  · cases h

theorem encoderChanged {a : Axis} {x y : Bool} (h : s.encoderChanged a x y = some t) : KeepsApart c s t := by
  unfold State.encoderChanged at h
  dsimp only at h
  split at h
  · cases h
  · rw [← Option.some.inj h]
    exact (modFbm a _).then_does (does_ite (fun _ => does_takeFault _ a _ _) fun _ => .refl _)
  · rw [← Option.some.inj h]
    exact (modFbm a _).then_does (does_testDeviation _ a)

theorem dwellExpired {a : Axis} (h : s.dwellExpired a = some t) : KeepsApart c s t := by
  unfold State.dwellExpired at h
  split at h
  · rw [← Option.some.inj h]
    exact (of_reachTime _).then_does (does_complete _ a _ fun _ => .inr rfl)
  · cases h

theorem holdoffExpired (h : s.holdoffExpired = some t) : KeepsApart c s t := by
  unfold State.holdoffExpired at h
  split at h
  · rw [← Option.some.inj h]
    exact (of_reachTime _).then_does (does_moderator _ _)
  · cases h

/-! ### The commands of the CTL ring -/

theorem runCommand {r : Record} {f : State → State × Answer}
    (h : ∀ s, KeepsApart c s (f s).1) : KeepsApart c s (s.runCommand r f) :=
  ((of_does (does_takeCtl s)).trans (h _)).then_does ((does_serve _).trans (does_endCommand _ _ _ _ _))

theorem takeRecord {k : Byte} {r : Record} {run : State → State} (hrun : KeepsApart c s (run s))
    (h : s.takeRecord k r run = some t) : KeepsApart c s t := by
  rcases takeRecord_cases s k r run with e | e | ⟨e, _⟩
  · rw [e] at h; cases h
  · rw [e] at h
    rw [← Option.some.inj h]
    unfold State.badCommand
    exact runCommand fun s => refl c s
  · rw [e] at h
    rw [← Option.some.inj h]
    exact hrun

theorem ctlCommand {α : Type} {k : Byte} {r : Record} {x : Option α} {f : α → State → State × Answer}
    (hf : ∀ x s, KeepsApart c s (f x s).1)
    (h : s.takeRecord k r (fun s => s.runCommand r (withArgs x f)) = some t) : KeepsApart c s t :=
  takeRecord (runCommand fun s => by
    cases x with
    | none => exact refl c s
    | some x => exact hf x s) h

theorem modCfg (q : Record) (a : Axis) (x : AxisConfig) :
    KeepsApart (.configAxis q) s (s.modAxis a fun y => { y with cfg := x }) :=
  ⟨rfl, fun n => (n q rfl).elim, fun _ _ => ⟨rfl, rfl⟩, fun _ => id, fun _ _ _ _ => rfl,
    fun _ _ => ⟨rfl, rfl, rfl⟩⟩

theorem modSeq (a : Axis) (f : Seq → Seq) : KeepsApart c s (s.modSeq a f) :=
  of_fields rfl (fun b => cfg_modSeq s a b f) (fun _ => ⟨rfl, rfl⟩) rfl

theorem configEnabled (q : Record) (a : Axis) (x : AxisConfig) :
    KeepsApart (.configAxis q) s (s.configEnabled a x).1 := by
  unfold State.configEnabled
  dsimp only
  refine (modCfg q a x).trans ?_
  generalize s.modAxis a (fun y => { y with cfg := x }) = u
  have h : KeepsApart (.configAxis q) u (if ((s.seq a).sq == .off) = true then
      u.modSeq a fun q => { q with sq := .empty, reason := none } else u) := by
    split
    · exact modSeq a _
    · exact refl _ u
  refine h.then_does ((does_refreshAxis _ a).trans ?_)
  exact does_ite (fun _ => does_haltCause _ a _ _ _) fun _ => .refl _

theorem configDisabled (q : Record) (a : Axis) (x : AxisConfig) :
    KeepsApart (.configAxis q) s (s.configDisabled a x).1 := by
  unfold State.configDisabled
  dsimp only
  refine ((modCfg q a x).then_does (does_discard _ a (s.inFlight a))).trans ?_
  unfold State.disableAxis
  dsimp only
  exact (modSeq a _).then_does (((does_breakFor _ a).1.trans
    (does_foldl _ (fun s b => does_haltCause s b .group .soft false) _)).trans (does_refreshAxis _ a))

theorem configAxis (q : Record) (x : Axis × AxisConfig) :
    KeepsApart (.configAxis q) s (Machine.configAxis x s).1 := by
  unfold Machine.configAxis
  split
  · exact refl _ s
  · split
    · exact refl _ s
    · split
      · exact configEnabled q x.1 x.2
      · exact configDisabled q x.1 x.2

theorem configLine (q : Record) (x : LineArgs) :
    KeepsApart (.configLine q) s (Machine.configLine x s).1 := by
  unfold Machine.configLine
  dsimp only
  have h : KeepsApart (.configLine q) s (s.modLine x.line fun _ => (s.line x.line).configure x) :=
    modLine x.line _ fun n => (n q rfl).elim
  refine h.then_does (Does.trans ?_ (does_stopRole _ _ _))
  exact does_ite (fun _ => does_limitLevel _ _ _) fun _ => .refl _

theorem writeBank (q : Record) (x : BankNo × Profile) :
    KeepsApart (.writeBank q) s (Machine.writeBank x s).1 := by
  unfold Machine.writeBank
  dsimp only
  split
  · exact refl _ s
  · refine ⟨rfl, fun _ _ => rfl, fun n => (n q rfl).elim, fun b hb => ?_, fun _ _ _ _ => rfl,
      fun _ _ => ⟨rfl, rfl, rfl⟩⟩
    rw [bank_modBank]
    split
    · rfl
    · exact hb

theorem runBarrier (r : Record) (m : BitVec 4) : KeepsApart c s (s.runBarrier r m) := by
  unfold State.runBarrier
  dsimp only
  split
  · exact of_does ((does_takeCtl s).trans (does_endBarrier _ _ _ _))
  · exact of_does ((does_takeCtl s).trans (does_cte _ _))

end KeepsApart

theorem keepsApart_effect (c : Instr) {s t : State} (h : effect c s = some t) : KeepsApart c s t := by
  cases c with
  | powerOn => cases h
  | resetLine => cases h
  | resetRelease => cases h
  | softReset w => rw [← Option.some.inj h]; exact .ctrlWrite _
  | enableSet w => rw [← Option.some.inj h]; exact .ctrlWrite _
  | enableClear w => rw [← Option.some.inj h]; exact .ctrlWrite _
  | stopAllSoft w => rw [← Option.some.inj h]; exact .ctrlWrite _
  | stopAllHard w => rw [← Option.some.inj h]; exact .ctrlWrite _
  | setupLoWrite w => exact .setupLoWrite h
  | setupHiWrite w => exact .setupHiWrite h
  | post w => rw [← Option.some.inj h]; exact .postWrite w
  | cack w => exact .cackWrite h
  | intsAcknowledge w => exact .intsWrite h
  | registerWrite o w => exact .writeReg h
  | rawChange l high => exact .rawChanged h
  | filterExpiry l => exact .filterExpired h
  | encoderChange a x y => exact .encoderChanged h
  | mgStep a =>
    obtain ⟨p, e⟩ := Option.ite_none_right_eq_some.1 h
    rw [← Option.some.inj e]; exact .of_does (does_stepped s a p)
  | profilePhaseEnd a =>
    obtain ⟨p, e⟩ := Option.ite_none_right_eq_some.1 h
    rw [← Option.some.inj e]; exact .of_does (does_phaseEnded s a p)
  | dwellExpiry a => exact .dwellExpired h
  | holdoffExpiry => exact .holdoffExpired h
  | fetchCompletion a r => exact .fetchCompleted h
  | setupReadCompletion b => exact .setupRead h
  | cplWriteCompletion =>
    rw [← Option.some.inj (Option.ite_none_right_eq_some.1 h).2]; exact .of_does (does_completeCplWrite s)
  | reportWriteCompletion r =>
    rw [← Option.some.inj (Option.ite_none_right_eq_some.1 h).2]; exact .of_does (does_completeReport s r)
  | busFault x => rw [← Option.some.inj (Option.ite_none_right_eq_some.1 h).2]; exact .busFault x
  | configAxis r => exact .ctlCommand (fun x _ => .configAxis r x) h
  | configLine r => exact .ctlCommand (fun x _ => .configLine r x) h
  | setPosition r => exact .ctlCommand (fun x s => .of_does (does_setPositionCommand s x)) h
  | setOutputs r => exact .ctlCommand (fun x s => .of_does (does_setOutputs s x)) h
  | barrier r =>
    simp only [effect] at h
    cases hm : argBarrier r with
    | none => rw [hm] at h; exact .takeRecord (.runCommand fun s => .refl _ s) h
    | some m => rw [hm] at h; exact .takeRecord (.runBarrier r m) h
  | queryAxis r => exact .ctlCommand (fun _ s => .refl _ s) h
  | queryLines r => exact .ctlCommand (fun _ s => .refl _ s) h
  | writeBank r => exact .ctlCommand (fun x _ => .writeBank r x) h
  | postSignal r => exact .ctlCommand (fun x s => .of_does (does_postSignalCommand s x)) h
  | clearSignal r => exact .ctlCommand (fun x s => .of_does (does_clearSignal s x)) h
  | openRendezvous r => exact .ctlCommand (fun x s => .of_does (does_openRendezvous s x)) h
  | closeRendezvous r => exact .ctlCommand (fun x s => .of_does (does_closeRendezvous s x)) h
  | halt r => exact .ctlCommand (fun x s => .of_does (does_halt s x)) h
  | resume r => exact .ctlCommand (fun x s => .of_does (does_resume s x)) h
  | armCapture r => exact .ctlCommand (fun x s => .of_does (does_armCapture s x)) h
  | disarmCapture r => exact .ctlCommand (fun x s => .of_does (does_disarmCapture s x)) h
  | unknownCommandKind r =>
    have e : s.badCommand r = t := Option.some.inj (Option.ite_none_right_eq_some.1 h).2
    rw [← e]
    unfold State.badCommand
    exact .runCommand fun s => .refl _ s

/-- The outcome of a command that is no hard reset, where the RESET line is not held. -/
theorem keepsApart_exec {c : Instr} {s t : State} (h : exec c s = .next t) (hc : isHardReset c = false)
    (hr : s.resetHeld = false ∨ ∀ l high, c ≠ .rawChange l high) : KeepsApart c s t := by
  obtain ⟨u, hu, k⟩ := exec_cases c s
  obtain rfl : u = t := by rw [hu] at h; cases h; rfl
  rcases k with ⟨n, _⟩ | e | ⟨l, high, e, n, _⟩ | ⟨a, x, y, _, e⟩ | ⟨_, v, hv, e⟩
  · rw [n] at hc; cases hc
  · rw [e]; exact .refl c s
  · rcases hr with hr | hr
    · rw [n] at hr; cases hr
    · exact absurd e (hr l high)
  · rw [e]; exact .modFbm a _
  · rw [e]; exact (keepsApart_effect c hv).then_does (does_finish v)

/-- Settles O6: whatever a command is not there to write, it keeps; while the RESET line is held a RAW_CHANGE
notes the pin only, which touches no axis and no bank. -/
theorem configurationHasOneWriter : Obligations.ConfigurationHasOneWriter := by
  intro c s t h hc
  by_cases hr : s.resetHeld = false ∨ ∀ l high, c ≠ .rawChange l high
  · have k := keepsApart_exec h hc hr
    exact ⟨k.cfg, k.bank, k.line, fun n _ => k.lineCfg n⟩
  · push Not at hr
    obtain ⟨held, l, high, rfl⟩ := hr
    have e : t = s.modLine l fun _ => .reset high := by
      change execRawChange l high s = _ at h
      rw [execRawChange, Bool.of_not_eq_false held] at h
      cases h; rfl
    rw [e]
    exact ⟨fun _ _ => rfl, fun _ _ => ⟨rfl, rfl⟩, fun _ n => absurd rfl (n l high), fun _ n => absurd n held⟩

/-- Settles O3: an event is answered with a next state, and neither its effect nor what follows it touches the
queue of waiting commands; a hard reset puts the queue back. -/
theorem everyCommandCompletes : Obligations.EveryCommandCompletes := by
  intro c s
  obtain ⟨t, ht, k⟩ := exec_cases c s
  refine ⟨t, ht, ?_⟩
  rcases k with ⟨_, held, e⟩ | e | ⟨l, high, _, _, e⟩ | ⟨a, x, y, _, e⟩ | ⟨_, v, hv, e⟩ <;> rw [e]
  · rfl
  · rfl
  · rfl
  · exact ((keepsApart_effect c hv).then_does (does_finish v)).pending

/-- A written bank stays written, whatever the command but a hard reset. -/
theorem written_exec {c : Instr} {s t : State} {b : BankNo} (h : exec c s = .next t)
    (hc : isHardReset c = false) (hb : (s.bank b).written = true) : (t.bank b).written = true := by
  by_cases hw : ∀ r, c ≠ .writeBank r
  · rw [((configurationHasOneWriter c s t h hc).2.1 hw b).2]; exact hb
  · push Not at hw
    obtain ⟨r, rfl⟩ := hw
    exact (keepsApart_exec h hc (.inr (by simp))).written b hb

end Sys2Proof.Proofs

/-! The register window (section 11.5) and the resets (R177): the bits of CTRL that each of its rows carries, the
writes by offset, what a register reads, and the values that the resets set. -/

namespace Sys2Proof.Proofs

open Sys2Proof.Machine Sys2Proof.Safety Sys2Proof.Laws

/-! ### The bits of the CTRL rows -/

/-- A write of CTRL acts by its four bits. -/
theorem ctrlWrite_congr (s : State) {v w : Word} (h0 : ctrlEnable v = ctrlEnable w)
    (h1 : ctrlReset v = ctrlReset w) (h2 : ctrlStopSoft v = ctrlStopSoft w)
    (h3 : ctrlStopHard v = ctrlStopHard w) : s.ctrlWrite v = s.ctrlWrite w := by
  simp only [State.ctrlWrite, State.ctrlStop, h0, h1, h2, h3]

theorem ctrlReset_softReset (w : Word) : ctrlReset (w ||| 2#32) = true := by
  simp [ctrlReset]

section
variable (w : Word)

theorem ctrlReset_clear (m : Word) (h : m.getLsbD 1 = true) : ctrlReset (w &&& ~~~m) = false := by
  simp [ctrlReset, h]

theorem getLsbD_or_and_not (i : Nat) (m n : Word) (hi : i < 32) :
    ((w ||| m) &&& ~~~n).getLsbD i = ((w.getLsbD i || m.getLsbD i) && !n.getLsbD i) := by
  simp [hi]

theorem getLsbD_and_not (i : Nat) (n : Word) (hi : i < 32) :
    (w &&& ~~~n).getLsbD i = (w.getLsbD i && !n.getLsbD i) := by
  simp [hi]

theorem ctrlEnable_enableSet : ctrlEnable ((w ||| 1#32) &&& ~~~2#32) = true := by
  rw [ctrlEnable, getLsbD_or_and_not _ _ _ _ (by decide)]; simp
theorem ctrlStopSoft_enableSet : ctrlStopSoft ((w ||| 1#32) &&& ~~~2#32) = ctrlStopSoft w := by
  rw [ctrlStopSoft, getLsbD_or_and_not _ _ _ _ (by decide)]; simp [ctrlStopSoft]
theorem ctrlStopHard_enableSet : ctrlStopHard ((w ||| 1#32) &&& ~~~2#32) = ctrlStopHard w := by
  rw [ctrlStopHard, getLsbD_or_and_not _ _ _ _ (by decide)]; simp [ctrlStopHard]

theorem ctrlEnable_enableClear : ctrlEnable (w &&& ~~~3#32) = false := by
  rw [ctrlEnable, getLsbD_and_not _ _ _ (by decide)]; simp
theorem ctrlStopSoft_enableClear : ctrlStopSoft (w &&& ~~~3#32) = ctrlStopSoft w := by
  rw [ctrlStopSoft, getLsbD_and_not _ _ _ (by decide)]; simp [ctrlStopSoft]
theorem ctrlStopHard_enableClear : ctrlStopHard (w &&& ~~~3#32) = ctrlStopHard w := by
  rw [ctrlStopHard, getLsbD_and_not _ _ _ (by decide)]; simp [ctrlStopHard]

theorem ctrlEnable_stopAllSoft : ctrlEnable ((w ||| 4#32) &&& ~~~10#32) = ctrlEnable w := by
  rw [ctrlEnable, getLsbD_or_and_not _ _ _ _ (by decide)]; simp [ctrlEnable]
theorem ctrlStopSoft_stopAllSoft : ctrlStopSoft ((w ||| 4#32) &&& ~~~10#32) = true := by
  rw [ctrlStopSoft, getLsbD_or_and_not _ _ _ _ (by decide)]; simp
theorem ctrlStopHard_stopAllSoft : ctrlStopHard ((w ||| 4#32) &&& ~~~10#32) = false := by
  rw [ctrlStopHard, getLsbD_or_and_not _ _ _ _ (by decide)]; simp

theorem ctrlEnable_stopAllHard : ctrlEnable ((w ||| 8#32) &&& ~~~2#32) = ctrlEnable w := by
  rw [ctrlEnable, getLsbD_or_and_not _ _ _ _ (by decide)]; simp [ctrlEnable]
theorem ctrlStopHard_stopAllHard : ctrlStopHard ((w ||| 8#32) &&& ~~~2#32) = true := by
  rw [ctrlStopHard, getLsbD_or_and_not _ _ _ _ (by decide)]; simp

end

/-- A write of CTRL without RESET. -/
theorem ctrlWrite_noReset (s : State) {w : Word} (h : ctrlReset w = false) :
    s.ctrlWrite w = (s.ctrlStop w).ctrlEnableField (ctrlEnable w) := by
  simp [State.ctrlWrite, h]

/-- In DS_OFF and DS_LOAD a STOP_ALL request is ignored (R109). -/
theorem ctrlStop_unsupervised (s : State) (w : Word) (h : s.supervised = false) : s.ctrlStop w = s := by
  simp [State.ctrlStop, State.stopAllRequest, h]

theorem ctrlStop_none (s : State) {w : Word} (hs : ctrlStopSoft w = false) (hh : ctrlStopHard w = false) :
    s.ctrlStop w = s := by
  simp [State.ctrlStop, hs, hh]

theorem supervised_iff (s : State) :
    s.supervised = true ↔ s.dev = .run ∨ s.dev = .drain ∨ s.dev = .fault := by
  simp [State.supervised, or_assoc]

theorem supervised_off {s : State} (h : s.dev = .off) : s.supervised = false := by simp [State.supervised, h]
theorem supervised_load {s : State} (h : s.dev = .load) : s.supervised = false := by simp [State.supervised, h]

/-! ### ENABLE to 1 -/

theorem exec_enableSet {s : State} {w : Word} (hr : s.resetHeld = false) :
    exec (.enableSet w) s =
      .next ((s.ctrlStop ((w ||| 1#32) &&& ~~~2#32)).ctrlEnableField true).finish := by
  rw [← ctrlEnable_enableSet w, ← ctrlWrite_noReset _ (ctrlReset_clear _ _ rfl)]
  exact exec_some rfl hr

/-- Settles O9, by the device states. -/
theorem enableSetLoadsOrFails : Obligations.EnableSetLoadsOrFails := by
  intro s w hr
  refine ⟨fun hd ha => ?_, fun hd ha => ?_, fun hd => ?_, fun hs hh hd => ?_⟩ <;> rw [exec_enableSet hr]
  · rw [ctrlStop_unsupervised _ _ (supervised_off hd)]
    simp only [State.ctrlEnableField, hd]
    simp [State.enableOn, State.setupAddr, State.recordFault, ha]
  · rw [ctrlStop_unsupervised _ _ (supervised_off hd)]
    simp only [State.ctrlEnableField, hd]
    simp [State.enableOn, State.setupAddr, State.recordFault, ha, State.failEnable, State.setDevice]
  · rw [ctrlStop_unsupervised _ _ (supervised_load hd)]
    simp only [State.ctrlEnableField, hd]
  · rw [ctrlStop_none s ((ctrlStopSoft_enableSet w).trans hs) ((ctrlStopHard_enableSet w).trans hh)]
    rcases hd with hd | hd | hd <;> simp only [State.ctrlEnableField, hd]

/-! ### POST -/

theorem exec_post {s : State} {w : Word} (hr : s.resetHeld = false) :
    exec (.post w) s = .next (s.postWrite w).finish := exec_some rfl hr

theorem postWrite_active {s : State} (w : Word) (h : s.dev = .run ∨ s.dev = .drain) :
    s.postWrite w = State.judgePost { s with postReg := w &&& postBits } w := by
  unfold State.postWrite
  exact if_pos ((active_iff _).2 h)

theorem postWrite_inactive {s : State} (w : Word) (h : ¬ (s.dev = .run ∨ s.dev = .drain)) :
    s.postWrite w = { s with postReg := w &&& postBits } := by
  unfold State.postWrite
  exact if_neg (mt (active_iff _).1 h)

theorem ring_accepts_iff (x : Ring) (i : Nat) : x.accepts i = true ↔
    i < x.size ∧ (x.prod + x.size - x.cons) % x.size ≤ (i + x.size - x.cons) % x.size := by
  rw [Ring.accepts, Bool.and_eq_true, decide_eq_true_iff, decide_eq_true_iff, ringDist, ringDist]

theorem judgePost_ring (s : State) (w : Word) (r : RingNo) (h : (w.extractLsb' 0 8).toNat = r.val) :
    s.judgePost w = if (s.ring r).accepts (postIndex w) then s.modRing r fun x => { x with prod := postIndex w }
      else s.recordFault .postRange (.ring r) := by
  have hr : postRing w = r.val := h
  simp [State.judgePost, hr]

theorem judgePost_none (s : State) (w : Word) (h : 4 < (w.extractLsb' 0 8).toNat) :
    s.judgePost w = s.recordFault .postRange .none := by
  have : ¬ postRing w < 5 := by simp only [postRing]; omega
  simp [State.judgePost, this]

theorem postReg_postWrite (s : State) (w : Word) : (s.postWrite w).postReg = w &&& postBits := by
  unfold State.postWrite State.judgePost
  dsimp only
  repeat' split
  all_goals rfl

/-- Settles O13: the judgement of R169 by the device state and by the ring number. -/
theorem postMovesTheProducerIndex : Obligations.PostMovesTheProducerIndex := by
  intro s w hr
  have hp (u : State) (h : s.postWrite w = u) : exec (.post w) s = .next u.finish := by
    rw [exec_post hr, h]
  refine ⟨fun r h hd => ?_, fun h hd => ?_, fun hd => ?_, ?_⟩
  · have e := (postWrite_active w hd).trans (judgePost_ring _ w r h)
    dsimp only
    split
    case isTrue k => exact hp _ (e.trans (if_pos ((ring_accepts_iff (s.ring r) (postIndex w)).2 k)))
    case isFalse k => exact hp _ (e.trans (if_neg (mt (ring_accepts_iff (s.ring r) (postIndex w)).1 k)))
  · exact hp _ ((postWrite_active w hd).trans (judgePost_none _ w h))
  · exact hp _ (postWrite_inactive w (by rcases hd with hd | hd | hd <;> simp [hd]))
  · refine ⟨_, exec_post hr, ?_⟩
    exact (does_finish (s.postWrite w)).postReg.trans (postReg_postWrite s w)

/-! ### Offsets -/

theorem writeReg_ignored (s : State) {o : Word} (w : Word) (h : writableOffsets.contains o = false) :
    s.writeReg o w = none := by
  have n (k : Word) (hk : k ∈ writableOffsets) : o.toNat ≠ k.toNat := fun e => by
    have : o = k := BitVec.eq_of_toNat_eq e
    subst this
    simp only [List.contains_eq_mem, decide_eq_false_iff_not] at h
    exact h hk
  have h1 := n 0x04#32 (by decide)
  have h2 := n 0x0C#32 (by decide)
  have h3 := n 0x10#32 (by decide)
  have h4 := n 0x14#32 (by decide)
  have h5 := n 0x18#32 (by decide)
  have h6 := n 0x1C#32 (by decide)
  unfold State.writeReg
  split <;> simp_all

theorem ctrlWrite_byRow (s : State) (w : Word) : s.ctrlWrite w =
    s.ctrlWrite (if w.getLsbD 1 then w ||| 2#32 else if w.getLsbD 0 then (w ||| 1#32) &&& ~~~2#32
      else w &&& ~~~3#32) := by
  by_cases h1 : w.getLsbD 1 = true
  · have e : ctrlReset w = true := h1
    simp [h1, State.ctrlWrite, e, ctrlReset_softReset]
  · have e1 : ctrlReset w = false := by simpa [ctrlReset] using h1
    by_cases h0 : w.getLsbD 0 = true
    · have e0 : ctrlEnable w = true := h0
      simp only [h1, h0, if_true]
      exact ctrlWrite_congr s (e0.trans (ctrlEnable_enableSet w).symm)
        (e1.trans (ctrlReset_clear _ _ rfl).symm) (ctrlStopSoft_enableSet w).symm
        (ctrlStopHard_enableSet w).symm
    · have e0 : ctrlEnable w = false := by simpa [ctrlEnable] using h0
      simp only [h1, h0]
      exact ctrlWrite_congr s (e0.trans (ctrlEnable_enableClear w).symm)
        (e1.trans (ctrlReset_clear _ _ rfl).symm) (ctrlStopSoft_enableClear w).symm
        (ctrlStopHard_enableClear w).symm

theorem exec_registerWrite_ctrl (s : State) (w : Word) : exec (.registerWrite 0x04#32 w) s = exec
    (if w.getLsbD 1 then .softReset w else if w.getLsbD 0 then .enableSet w else .enableClear w) s := by
  have e : exec (.registerWrite 0x04#32 w) s = s.event fun s => some (s.ctrlWrite w) := rfl
  have k (v : Word) (h : ∀ u : State, u.ctrlWrite w = u.ctrlWrite v) :
      exec (.registerWrite 0x04#32 w) s = s.event fun s => some (s.ctrlWrite v) := by
    rw [e]; congr 1; funext u; rw [h]
  have h := fun u : State => ctrlWrite_byRow u w
  split <;> rename_i h1
  · simp only [h1, if_true] at h
    exact k _ h
  · simp only [h1] at h
    split <;> rename_i h0
    · simp only [h0, if_true] at h
      exact k _ h
    · simp only [h0] at h
      exact k _ h

/-! ### Reading -/

theorem readReg_other (s : State) {o : Word}
    (h : o ∉ [0x00#32, 0x04#32, 0x08#32, 0x0C#32, 0x10#32, 0x14#32, 0x18#32, 0x1C#32]) :
    s.readReg o = 0 := by
  have n (k : Word) (hk : k ∈ [0x00#32, 0x04#32, 0x08#32, 0x0C#32, 0x10#32, 0x14#32, 0x18#32, 0x1C#32]) :
      o.toNat ≠ k.toNat := fun e => h (BitVec.eq_of_toNat_eq e ▸ hk)
  have h0 := n 0x00#32 (by decide)
  have h1 := n 0x04#32 (by decide)
  have h2 := n 0x08#32 (by decide)
  have h3 := n 0x0C#32 (by decide)
  have h4 := n 0x10#32 (by decide)
  have h5 := n 0x14#32 (by decide)
  have h6 := n 0x18#32 (by decide)
  have h7 := n 0x1C#32 (by decide)
  unfold State.readReg
  split <;> simp_all

/-- The bits of three bytes side by side. -/
theorem getLsbD_bytes (a b c : Byte) (i : Nat) : (0#8 ++ (c ++ (b ++ a))).getLsbD i =
    if i < 8 then a.getLsbD i else if i - 8 < 8 then b.getLsbD (i - 8)
    else if i - 8 - 8 < 8 then c.getLsbD (i - 8 - 8) else false := by
  have low (x : BitVec 8) (n : Nat) (y : BitVec n) : (x ++ y).getLsbD i =
      if i < n then y.getLsbD i else x.getLsbD (i - n) := BitVec.getLsbD_append
  rw [low, low, low, show i - (8 + 8) = i - 8 - 8 by omega]
  by_cases h1 : i < 8
  · simp [h1, show i < 8 + 8 by omega, show i < 8 + (8 + 8) by omega]
  · by_cases h2 : i - 8 < 8
    · simp [h1, h2, show i < 8 + 8 by omega, show i < 8 + (8 + 8) by omega]
    · by_cases h3 : i - 8 - 8 < 8
      · simp [h1, h2, h3, show ¬ i < 8 + 8 by omega, show i < 8 + (8 + 8) by omega]
      · simp [h1, h2, h3, show ¬ i < 8 + (8 + 8) by omega]

/-- Three bytes in a word, one above the other. -/
theorem bytes_append (a b c : Byte) :
    (a.setWidth 32 : Word) ||| (b.setWidth 32 <<< 8) ||| (c.setWidth 32 <<< 16) =
      0#8 ++ (c ++ (b ++ a)) := by
  refine BitVec.eq_of_getLsbD_eq fun i hi => Eq.trans ?_ (getLsbD_bytes a b c i).symm
  simp only [BitVec.getLsbD_or, BitVec.getLsbD_shiftLeft, BitVec.getLsbD_setWidth, hi, decide_true,
    Bool.true_and, show i - 8 < 32 by omega, show i - 16 < 32 by omega]
  have z (x : Byte) (k : Nat) (h : 8 ≤ k) : x.getLsbD k = false := BitVec.getLsbD_of_ge x k h
  split
  · simp [show i < 16 by omega, *]
  · rename_i h1
    rw [z a i (by omega)]
    split
    · simp [show i < 16 by omega, *]
    · rename_i h2
      rw [z b (i - 8) (by omega), show i - 8 - 8 = i - 16 by omega]
      split
      · simp [show ¬ i < 16 by omega]
      · rw [z c (i - 16) (by omega)]; simp

/-- The word of INTS: the notify count, the three causes and the IRQ line (R182). -/
theorem intsWord_append (n : Nat) (c h d i : Bool) (hn : n ≤ 255) :
    BitVec.ofNat 32 n ||| (flagWord c <<< 8) ||| (flagWord h <<< 9) ||| (flagWord d <<< 10)
        ||| (flagWord i <<< 16) =
      0#15 ++ (BitVec.ofBool i ++ (0#5 ++ (BitVec.ofBool d ++ (BitVec.ofBool h ++ (BitVec.ofBool c
        ++ BitVec.ofNat 8 n))))) := by
  have e : (BitVec.ofNat 32 n : Word) = (BitVec.ofNat 8 n : BitVec 8).setWidth 32 := by
    apply BitVec.eq_of_toNat_eq
    simp [Nat.mod_eq_of_lt (show n < 256 by omega), Nat.mod_eq_of_lt (show n < 4294967296 by omega)]
  rw [e]
  generalize (BitVec.ofNat 8 n : BitVec 8) = m
  cases c <;> cases h <;> cases d <;> cases i <;> revert m <;> decide

/-- Settles O16: the writes by their offsets, and each register's word as its fields side by side. -/
theorem registerWritesByTheirOffset : Obligations.RegisterWritesByTheirOffset := by
  intro s o w hr
  refine ⟨fun hd => ⟨?_, ?_⟩, fun hd => ⟨?_, ?_⟩, fun ho => ?_, exec_registerWrite_ctrl s w, rfl, rfl, rfl,
    rfl, rfl, rfl, ?_, ?_, rfl, rfl, rfl, rfl, fun hn => ?_, readReg_other s⟩
  · exact exec_some (c := .setupLoWrite w) (if_pos hd) hr
  · exact exec_some (c := .setupHiWrite w) (if_pos hd) hr
  · exact exec_none (c := .setupLoWrite w) (if_neg hd) rfl hr
  · exact exec_none (c := .setupHiWrite w) (if_neg hd) rfl hr
  · exact exec_none (c := .registerWrite o w) (writeReg_ignored s w ho) rfl hr
  · change flagWord s.enable = _
    cases s.enable <;> rfl
  · refine (bytes_append s.dev.code s.faultCode.code s.faultSource.code).trans ?_
    refine congrArg₂ (fun x y => 0#8 ++ (x ++ y)) ?_ (congrArg₂ (fun x y => x ++ y) ?_ ?_)
    · cases s.faultSource <;> rfl
    · cases s.faultCode <;> rfl
    · cases s.dev <;> rfl
  · exact intsWord_append _ _ _ _ _ hn

end Sys2Proof.Proofs

/-! The resets (R177): the values that the hard resets set, and what the soft reset clears and keeps. -/

namespace Sys2Proof.Proofs

open Sys2Proof.Machine Sys2Proof.Safety Sys2Proof.Laws

/-! ### Nothing follows an event in DS_OFF -/

section
variable {s : State}

theorem active_eq_false (hr : s.dev ≠ .run) (hd : s.dev ≠ .drain) : s.active = false := by
  simp [State.active, hr, hd]

theorem serve_of_inactive (h : s.active = false) : s.serve = s := by
  have e : s.serveOnce = none := by simp [State.serveOnce, h]
  change serveUpTo (63 + 1) s = s
  rw [serveUpTo, e]

theorem cteClaim_of_not_run (h : s.dev ≠ .run) : s.cteClaim = s := by simp [State.cteClaim, h]

theorem beginFetch_of_not_run (a : Axis) (h : s.dev ≠ .run) : State.beginFetch a s = s := by
  simp [State.beginFetch, State.mayFetch, h]

theorem beginFetches_of_not_run (h : s.dev ≠ .run) : s.beginFetches = s := by
  simp [State.beginFetches, allAxes, beginFetch_of_not_run, h]

theorem beginCplWrite_of_inactive (h : s.active = false) : s.beginCplWrite = s := by
  unfold State.beginCplWrite
  split
  · simp [h]
  · rfl

theorem judgeBarrier_of_no_barrier (h : ∀ b, s.cte ≠ .barrier b) : s.judgeBarrier = s := by
  unfold State.judgeBarrier
  split
  · exact absurd ‹_› (h _)
  · rfl

theorem finish_of_off (h : s.dev = .off) (hb : ∀ b, s.cte ≠ .barrier b) : s.finish = s := by
  have hr : s.dev ≠ .run := by simp [h]
  have ha : s.active = false := active_eq_false hr (by simp [h])
  simp [State.finish, serve_of_inactive ha, judgeBarrier_of_no_barrier hb, cteClaim_of_not_run hr,
    beginFetches_of_not_run hr, beginCplWrite_of_inactive ha, State.drainEnd, State.faultExit, h]

end

/-! ### The hard resets -/

section
variable (s : State) (held : Bool)

theorem axis_hardReset (a : Axis) :
    (s.hardReset held).axis a = .reset (s.fbm a).encA (s.fbm a).encB := by
  simp [State.axis, State.hardReset, State.afterReset, Vector.get_eq_getElem, State.encPins, State.fbm]

theorem seq_hardReset (a : Axis) : (s.hardReset held).seq a = .reset := by
  rw [State.seq, axis_hardReset]; rfl
theorem cfg_hardReset (a : Axis) : (s.hardReset held).cfg a = .reset := by
  rw [State.cfg, axis_hardReset]; rfl
theorem mg_hardReset (a : Axis) : (s.hardReset held).mg a = .reset := by
  rw [State.mg, axis_hardReset]; rfl
theorem fbm_hardReset (a : Axis) :
    (s.hardReset held).fbm a = .reset (s.fbm a).encA (s.fbm a).encB := by
  rw [State.fbm, axis_hardReset]; rfl
theorem line_hardReset (l : Line) : (s.hardReset held).line l = .reset (s.line l).pin := by
  simp [State.line, State.hardReset, State.afterReset, Vector.get_eq_getElem, State.pins]

theorem velocity_reset : MG.reset.velocity = 0 := by
  have e : speedWhole 0 = 0 := by
    have f : speedFloor 0 = 0 := by decide +kernel
    simp [speedWhole, f, square]
  simp [MG.velocity, MG.reset, e]

theorem replicate_get {α : Type} {n : Nat} (x : α) (i : Fin n) : (Vector.replicate n x).get i = x := by
  simp [Vector.get_eq_getElem]

theorem afterReset_hardReset : AfterReset (s.hardReset held) where
  device := ⟨rfl, rfl, rfl, rfl⟩
  registers := ⟨rfl, rfl, rfl, rfl⟩
  quiet := ⟨rfl, rfl, rfl, rfl, rfl⟩
  transfers := ⟨fun r => replicate_get _ r, rfl, rfl, rfl⟩
  axes a := by
    rw [seq_hardReset, cfg_hardReset, State.ena, cfg_hardReset]
    exact ⟨rfl, rfl, rfl, fun p => by cases p <;> rfl, rfl, rfl⟩
  motion a := by
    rw [mg_hardReset, State.dirPin, mg_hardReset]
    exact ⟨rfl, rfl, velocity_reset, rfl, rfl, rfl, fun b => replicate_get _ b⟩
  feedback a := by
    rw [fbm_hardReset]
    exact ⟨rfl, rfl, rfl, rfl, rfl⟩
  tables := ⟨fun b => replicate_get _ b, fun n => replicate_get _ n, rfl, fun e => replicate_get _ e,
    fun u => replicate_get _ u, rfl⟩
  lines l := by rw [line_hardReset]; rfl

/-- What stands after a hard reset. -/
theorem hardReset_stands : AfterReset (s.hardReset held) ∧ (s.hardReset held).resetHeld = held ∧
    (∀ l, ((s.hardReset held).line l).pin = (s.line l).pin) ∧
    ∀ a, ((s.hardReset held).fbm a).encA = (s.fbm a).encA ∧
      ((s.hardReset held).fbm a).encB = (s.fbm a).encB := by
  refine ⟨afterReset_hardReset s held, rfl, fun l => ?_, fun a => ?_⟩
  · rw [line_hardReset]; rfl
  · rw [fbm_hardReset]; exact ⟨rfl, rfl⟩

end

/-- Settles O7: each of the three is the one hard reset, with its level at the RESET pin. -/
theorem hardResetsSetTheResetValues : Obligations.HardResetsSetTheResetValues := by
  intro s
  refine ⟨⟨_, rfl, hardReset_stands s _⟩, fun released => ⟨_, rfl, hardReset_stands s _⟩,
    fun hr => ⟨s.hardReset false, ?_, hardReset_stands s false⟩, fun hr => ?_⟩
  · change Host.Outcome.next _ = _
    rw [hr]; rfl
  · change Host.Outcome.next _ = _
    rw [hr]; rfl

/-! ### The soft reset -/

section
variable (s : State)

/-- The state of a soft reset before the direction blocks are recomputed (R177, R90). -/
def softCleared : State :=
  { s.clearUses with
    dev := .off, enable := false, faultCode := .none, faultSource := .none, postReg := 0
    rings := Vector.replicate 5 .reset, reportAddr := 0, cpl := .reset, queue := .reset, owed := []
    claims := [], moderator := s.moderator.clear, cte := .idle
    axes := s.axes.map AxisState.softReset
    signals := Vector.replicate 16 .reset, overflowMask := 0, overflowTime := 0
    rdv := Vector.replicate 8 .reset, caps := Vector.replicate 4 .disarmed, outs := 0 }

theorem softReset_eq : s.softReset = forEach allAxes State.recomputeBlocks (softCleared s) := rfl

theorem axis_softCleared (a : Axis) : (softCleared s).axis a = (s.axis a).softReset := by
  simp [State.axis, softCleared, Vector.get_eq_getElem]

/-- Recomputing the blocks changes the sequencers only. -/
theorem recomputeBlocks_eq (a : Axis) : State.recomputeBlocks a s = s.modSeq a fun q =>
    { q with lineNeg := s.levelOf (s.cfg a).limitNeg, linePos := s.levelOf (s.cfg a).limitPos
             posPos := beyondPos (s.cfg a) (s.mg a).pos, posNeg := beyondNeg (s.cfg a) (s.mg a).pos } := by
  unfold State.recomputeBlocks State.recomputePosBlocks State.recomputeLineBlocks
  rw [modSeq_modSeq]
  simp only [cfg_modSeq, mg_modSeq]

theorem seq_recomputeBlocks (a b : Axis) : (State.recomputeBlocks a s).seq b =
    if b = a then { s.seq a with
      lineNeg := s.levelOf (s.cfg a).limitNeg, linePos := s.levelOf (s.cfg a).limitPos
      posPos := beyondPos (s.cfg a) (s.mg a).pos, posNeg := beyondNeg (s.cfg a) (s.mg a).pos }
    else s.seq b := by
  rw [recomputeBlocks_eq, seq_modSeq]

theorem cfg_recomputeBlocks (a b : Axis) : (State.recomputeBlocks a s).cfg b = s.cfg b := by
  rw [recomputeBlocks_eq, cfg_modSeq]
theorem mg_recomputeBlocks (a b : Axis) : (State.recomputeBlocks a s).mg b = s.mg b := by
  rw [recomputeBlocks_eq, mg_modSeq]
theorem fbm_recomputeBlocks (a b : Axis) : (State.recomputeBlocks a s).fbm b = s.fbm b := by
  rw [recomputeBlocks_eq, fbm_modSeq]
theorem levelOf_recomputeBlocks (a : Axis) (l : Option Line) :
    (State.recomputeBlocks a s).levelOf l = s.levelOf l := by
  rw [recomputeBlocks_eq]; rfl

theorem mg_softReset (a : Axis) : s.softReset.mg a = (s.mg a).softReset := by
  rw [softReset_eq]
  simp only [allAxes, forEach_cons, forEach_nil, mg_recomputeBlocks]
  rw [State.mg, axis_softCleared]; rfl

theorem cfg_softReset (a : Axis) : s.softReset.cfg a = s.cfg a := by
  rw [softReset_eq]
  simp only [allAxes, forEach_cons, forEach_nil, cfg_recomputeBlocks]
  rw [State.cfg, axis_softCleared]; rfl

theorem fbm_softReset (a : Axis) :
    s.softReset.fbm a = { s.fbm a with tripped := false, enaDropped := false } := by
  rw [softReset_eq]
  simp only [allAxes, forEach_cons, forEach_nil, fbm_recomputeBlocks]
  rw [State.fbm, axis_softCleared]; rfl

theorem seq_softReset (a : Axis) : s.softReset.seq a =
    { sq := if (s.cfg a).enabled then .empty else .off, reason := none, window := []
      lineNeg := s.levelOf (s.cfg a).limitNeg, linePos := s.levelOf (s.cfg a).limitPos
      posNeg := beyondNeg (s.cfg a) (s.mg a).pos, posPos := beyondPos (s.cfg a) (s.mg a).pos } := by
  have h : s.softReset.seq a = { (softCleared s).seq a with
      lineNeg := (softCleared s).levelOf ((softCleared s).cfg a).limitNeg
      linePos := (softCleared s).levelOf ((softCleared s).cfg a).limitPos
      posPos := beyondPos ((softCleared s).cfg a) ((softCleared s).mg a).pos
      posNeg := beyondNeg ((softCleared s).cfg a) ((softCleared s).mg a).pos } := by
    rw [softReset_eq]
    simp only [allAxes, forEach_cons, forEach_nil, seq_recomputeBlocks, cfg_recomputeBlocks,
      mg_recomputeBlocks, levelOf_recomputeBlocks]
    fin_cases a <;> simp
  rw [h]
  simp only [State.seq, State.cfg, State.mg, axis_softCleared]
  rfl

/-- Only the axes are recomputed. -/
theorem softReset_fields : ∃ v, s.softReset = { softCleared s with axes := v } := by
  have h (a : Axis) (u : State) : ∃ v, State.recomputeBlocks a u = { u with axes := v } :=
    ⟨_, recomputeBlocks_eq u a⟩
  obtain ⟨v0, h0⟩ := h 0 (softCleared s)
  obtain ⟨v1, h1⟩ := h 1 { softCleared s with axes := v0 }
  obtain ⟨v2, h2⟩ := h 2 { softCleared s with axes := v1 }
  obtain ⟨v3, h3⟩ := h 3 { softCleared s with axes := v2 }
  refine ⟨v3, ?_⟩
  rw [softReset_eq]
  simp only [allAxes, forEach_cons, forEach_nil]
  rw [h0, h1, h2, h3]

theorem bank_softReset (b : BankNo) : s.softReset.bank b = { s.bank b with uses := 0 } := by
  obtain ⟨v, h⟩ := softReset_fields s
  rw [h]
  simp [State.bank, softCleared, State.clearUses, Vector.get_eq_getElem]

end

theorem exec_softReset {s : State} (w : Word) (hr : s.resetHeld = false) :
    exec (.softReset w) s = .next s.softReset := by
  have h : effect (.softReset w) s = some s.softReset := by
    change some (s.ctrlWrite (w ||| 2#32)) = _
    simp [State.ctrlWrite, ctrlReset_softReset]
  obtain ⟨v, hv⟩ := softReset_fields s
  rw [exec_some h hr, finish_of_off]
  · rw [hv]; rfl
  · rw [hv]; intro b n; cases n

/-- Settles O8: nothing follows a soft reset, since it leaves the part in DS_OFF; each field stands as its block's
rule says. -/
theorem softResetClearsAndKeeps : Obligations.SoftResetClearsAndKeeps := by
  intro s w hr
  obtain ⟨v, hv⟩ := softReset_fields s
  refine ⟨_, exec_softReset w hr, ?_, ⟨fun r => ?_, ?_, ?_, ?_, fun r => ?_, ?_, ?_⟩, fun a => ?_, fun a => ?_,
    fun a => ⟨cfg_softReset s a, fbm_softReset s a⟩, bank_softReset s, fun n => ?_, fun e => ?_, fun u => ?_, ?_⟩
  · rw [hv]; exact ⟨rfl, rfl, rfl, rfl, rfl, rfl, rfl, rfl, rfl, rfl, rfl, rfl⟩
  · rw [hv]; exact replicate_get _ r
  · rw [hv]; rfl
  · rw [hv]; rfl
  · rw [hv]; rfl
  · rw [hv]
    have h : State.ring { softCleared s with axes := v } r = .reset := replicate_get _ r
    simp [State.reportPort, h, Ring.reset]
  · rw [hv]; rfl
  · rw [hv]; rfl
  · rw [seq_softReset]; exact ⟨rfl, rfl, rfl, rfl, rfl, rfl, rfl⟩
  · rw [mg_softReset]; exact ⟨rfl, rfl, rfl, rfl, rfl, fun b => replicate_get _ b⟩
  · rw [hv]; exact replicate_get _ n
  · rw [hv]; exact replicate_get _ e
  · rw [hv]; exact replicate_get _ u
  · rw [hv]; exact ⟨rfl, rfl, rfl, rfl, rfl, rfl⟩

end Sys2Proof.Proofs

/-! The Motion Generator on its own (chapter 3): the tick, the two stops, and the motions that the kinds of
segments begin, an equation for each case of the model's functions. -/

namespace Sys2Proof.Proofs

open Sys2Proof.Machine Sys2Proof.Safety Sys2Proof.Laws

/-! ### The tick -/

theorem tick_held {s : State} (h : s.resetHeld = true) : s.tick = s := if_pos h

theorem tick_running {s : State} (h : s.resetHeld = false) :
    s.tick = { s with time := s.time + 1, axes := s.axes.map fun x => { x with mg := x.mg.creep } } := by
  rw [State.tick, if_neg (by simp [h])]

theorem isStill_iff (m : MG) : m.isStill = true ↔ m.motion = .still := by simp [MG.isStill]

theorem creep_still {m : MG} (h : m.motion = .still) : m.creep = m := by simp [MG.creep, MG.isStill, h]

/-- Settles O2: the tick moves each MG alone, by a distance that is cut off at the next step and at the next end of
a phase. -/
theorem idleStepIsOneMicrosecond : Obligations.IdleStepIsOneMicrosecond := by
  refine ⟨fun s h => ⟨s.tick, by simp only [step, h], tick_held, fun hr => ?_⟩,
    fun m => ⟨creep_still, fun hm => ?_⟩⟩
  · rw [tick_running hr]
    exact ⟨rfl, fun a => by simp [State.seq, State.cfg, State.fbm, State.mg, State.axis, Vector.get_eq_getElem],
      rfl⟩
  · intro rate free toStep y
    have h0 : 0 ≤ toStep := le_min (le_max_left _ _) (le_max_left _ _)
    have hs : y ≤ toStep := by
      simp only [y]
      cases m.phaseEnd
      · exact le_rfl
      · exact min_le_left _ _
    refine ⟨?_, ?_, fun hf => ?_, fun z hz h => ?_⟩
    · have e : m.creep = m.travel y := by
        unfold MG.creep
        exact if_neg (by simpa [MG.isStill] using hm)
      exact e
    · simp only [y]
      cases m.phaseEnd
      · exact h0
      · exact le_min h0 (le_max_left _ _)
    · have h1 : toStep ≤ 1 - m.frac := (min_le_right _ _).trans (max_eq_right (by linarith)).le
      linarith
    · simp only [y, hz]
      exact (min_le_right _ _).trans (max_eq_right h).le

/-! ### The two stops -/

section
variable (m : MG) (d : Nat)

theorem softStop_still (h : m.motion = .still) : m.softStop d = m.clearGoal := by
  simp [MG.softStop, MG.clearGoal, h]

theorem softStop_ramp (h : m.motion = .stopRamp) : m.softStop d = m.clearGoal := by
  simp [MG.softStop, MG.clearGoal, h]

theorem softStop_moving (h : m.motion ≠ .still) (k : m.motion ≠ .stopRamp) : m.softStop d =
    if m.speedSq ≤ square m.profile.vstop then m.clearGoal.stand
    else { m.clearGoal with motion := .stopRamp, rate := d } := by
  unfold MG.softStop
  dsimp only
  split
  · exact absurd ‹_› h
  · exact absurd ‹_› k
  · rfl

/-- A soft stop keeps the position and leaves no goal. -/
theorem softStop_keeps : (m.softStop d).goal = .none ∧ (m.softStop d).pos = m.pos := by
  unfold MG.softStop
  dsimp only
  split
  · exact ⟨rfl, rfl⟩
  · exact ⟨rfl, rfl⟩
  · split <;> exact ⟨rfl, rfl⟩

end

/-- Settles O25, by the motion state at which the soft stop is asked for. -/
theorem stopsOfTheMG : Obligations.StopsOfTheMG := by
  intro m d
  refine ⟨⟨rfl, rfl, rfl, rfl, rfl, rfl⟩, (softStop_keeps m d).1, (softStop_keeps m d).2, fun h => ?_,
    fun h k => ?_, fun h => ?_⟩
  · rw [softStop_still m d h]; exact ⟨h, rfl⟩
  · rw [softStop_moving m d h k]
    change if m.speedSq ≤ square m.profile.vstop then _ else _
    split
    · exact ⟨rfl, rfl⟩
    · exact ⟨rfl, rfl, rfl, rfl⟩
  · rw [softStop_ramp m d h]; exact ⟨h, rfl, rfl⟩

/-! ### Squares and whole steps -/

theorem square_lt {u v : Nat} : square u < square v ↔ u < v := by
  rw [square, square, Nat.cast_lt]
  exact Nat.mul_self_lt_mul_self_iff

theorem square_le {u v : Nat} : square u ≤ square v ↔ u ≤ v := by
  rw [← not_lt, ← not_lt, square_lt]

theorem wholeSteps_eq (d : Rat) : wholeSteps d = ⌈d⌉ := by
  rw [wholeSteps, Rat.ceil_def', Rat.ceil_eq_neg_floor_neg, Rat.floor_def, Rat.num_neg_eq_neg_num,
    Rat.den_neg_eq_den]

theorem descentDistance_square (u vstop rate : Nat) : descentDistance (square u) vstop rate =
    if vstop < u then (square u - square vstop) / (2 * (rate : Rat)) else 0 := by
  simp only [descentDistance, rampDistance, square_lt]

/-! ### Descents and reversals -/

section
variable (m : MG)

theorem descend_slow (rate : Nat) (h : m.speedSq ≤ square m.profile.vstop) :
    m.descend rate = ({ m.stand with rate := rate }, true) := if_pos h

theorem descend_fast (rate : Nat) (h : ¬ m.speedSq ≤ square m.profile.vstop) :
    m.descend rate = ({ m with motion := .decel, rate := rate }, false) := if_neg h

theorem reverse_slow (h : m.speedSq ≤ square m.profile.vstop) :
    m.reverse = ({ m.stand with rate := m.profile.decel } : MG).restart := by
  rw [MG.reverse, descend_slow m _ h]

theorem reverse_fast (h : ¬ m.speedSq ≤ square m.profile.vstop) :
    m.reverse = ({ m with motion := .decel, rate := m.profile.decel, reversing := true }, .none) := by
  rw [MG.reverse, descend_fast m _ h]

theorem restart_position {e : Int} (h : m.goal = .position e) : m.restart =
    if e = m.pos then ({ m.stand with reversing := false }, .targetReached)
    else (({ m.stand with reversing := false } : MG).planFromStill e, .none) := by
  unfold MG.restart
  dsimp only
  split
  · rename_i x hx
    obtain rfl : x = e := by have := hx.symm.trans h; cases this; rfl
    rfl
  · rename_i hx; have := hx.symm.trans h; cases this
  · rename_i h1 h2; exact absurd h (h1 e)

theorem restart_velocity {r : Int} (h : m.goal = .velocity r) : m.restart =
    ((({ m.stand with reversing := false } : MG).rise (0 < r) r.natAbs),
      if r.natAbs ≤ m.profile.vstart then .velocityReached else .none) := by
  unfold MG.restart
  dsimp only
  split
  · rename_i hx; have := hx.symm.trans h; cases this
  · rename_i x hx
    obtain rfl : x = r := by have := hx.symm.trans h; cases this; rfl
    change (if x.natAbs ≤ m.profile.vstart then _ else _) = _
    split <;> rfl
  · rename_i h1 h2; exact absurd h (h2 r)

/-- The fields of a motion planned from standstill, its form and its motion state apart. -/
theorem planFromStill_fields (e : Int) : (m.planFromStill e).pos = m.pos ∧
    (m.planFromStill e).goal = .position e ∧ (m.planFromStill e).cruise = m.cruise ∧
    (m.planFromStill e).positive = decide (m.pos < e) ∧
    (m.planFromStill e).speedSq = square (min m.profile.vstart m.cruise) ∧
    (m.planFromStill e).frac = 0 ∧ (m.planFromStill e).reversing = false :=
  ⟨rfl, rfl, rfl, rfl, rfl, rfl, rfl⟩

/-- The form of a motion planned from standstill (R55). -/
theorem planFromStill_form (e : Int) : (m.planFromStill e).form =
    if ((e - m.pos).natAbs : Int) <
        ⌈descentDistance (square (min m.profile.vstart m.cruise)) m.profile.vstop m.profile.decel⌉ then .flat
    else if ⌈rampDistance (square (min m.profile.vstart m.cruise)) (square m.cruise) m.profile.accel⌉ +
        ⌈descentDistance (square m.cruise) m.profile.vstop m.profile.decel⌉ ≤ ((e - m.pos).natAbs : Int)
      then .trapezoid else .triangle := by
  have h : ¬ square m.cruise < square (min m.profile.vstart m.cruise) := by
    rw [square_lt]; omega
  rw [← wholeSteps_eq, ← wholeSteps_eq, ← wholeSteps_eq]
  change MG.formOver _ (square (min m.profile.vstart m.cruise)) _ = _
  rw [MG.formOver]
  change (if _ then _ else if square m.cruise < square (min m.profile.vstart m.cruise) then _ else _) = _
  rw [if_neg h]
  rfl

/-! ### What the kinds begin -/

/-- The MG as a MOVE is handed to it. -/
def toMove (e : Int) (c : Nat) : MG :=
  { m with goal := .position e, cruise := c, reversing := false, rate := m.profile.decel }

theorem startMove_eq (e : Int) (c : Nat) : m.startMove e c =
    if e = m.pos then (toMove m e c, .holds)
    else if m.motion = .still then ((toMove m e c).planFromStill e, .none)
    else if (if m.positive then m.pos < e else e < m.pos) ∧ ⌈m.stopDistance⌉ ≤ ((e - m.pos).natAbs : Int) then
      let n : MG := { toMove m e c with form := (toMove m e c).formOver m.speedSq (e - m.pos).natAbs }
      ({ n with motion := n.positionState e }, .none)
    else (toMove m e c).reverse := by
  rw [← wholeSteps_eq]
  unfold MG.startMove
  by_cases h1 : e = m.pos
  · simp [h1, toMove]
  · by_cases h2 : m.motion = .still
    · simp [h1, h2, toMove, MG.isStill]
    · simp only [h1, if_false, h2, MG.isStill, beq_iff_eq]
      change (if ((if m.positive then decide (m.pos < e) else decide (e < m.pos)) &&
        decide (wholeSteps m.stopDistance ≤ ((e - m.pos).natAbs : Int))) = true then _ else _) = _
      refine if_congr ?_ rfl rfl
      cases m.positive <;> simp

theorem startRun_still (r : Int) (h : m.motion = .still) : m.startRun r =
    if r = 0 then ({ m with goal := .velocity r, reversing := false }, .holds)
    else (({ m with goal := .velocity r, reversing := false } : MG).rise (0 < r) r.natAbs,
      if r.natAbs ≤ m.profile.vstart then .velocityReached else .none) := by
  unfold MG.startRun
  simp only [MG.isStill, h, beq_self_eq_true, if_true]
  split
  · rfl
  · split <;> rfl

theorem startRun_zero (h : m.motion ≠ .still) : m.startRun 0 =
    if m.speedSq ≤ square m.profile.vstop then
      ({ m.stand with goal := .velocity 0, reversing := false, rate := m.profile.decel }, .standstill)
    else ({ m with goal := .velocity 0, reversing := false, motion := .decel, rate := m.profile.decel }, .none) := by
  unfold MG.startRun
  simp only [MG.isStill, h, beq_iff_eq, if_false, if_true]
  by_cases hs : m.speedSq ≤ square m.profile.vstop
  · rw [descend_slow { m with goal := .velocity 0, reversing := false } _ hs, if_pos hs]; rfl
  · rw [descend_fast { m with goal := .velocity 0, reversing := false } _ hs, if_neg hs]

theorem startRun_moving (r : Int) (h : m.motion ≠ .still) (h0 : r ≠ 0) : m.startRun r =
    let n : MG := { m with goal := .velocity r, reversing := false }
    if decide (0 < r) = m.positive then
      if square r.natAbs = m.speedSq then (n, .holds)
      else if m.speedSq < square r.natAbs then ({ n with motion := .accel }, .none)
      else ({ n with motion := .decel, rate := m.profile.decel }, .none)
    else n.reverse := by
  simp [MG.startRun, MG.isStill, h, h0]

theorem startStop_still (rate : Nat) (h : m.motion = .still) :
    m.startStop rate = ({ m with goal := .standstill, reversing := false }, .holds) := by
  simp [MG.startStop, MG.isStill, h]

theorem startStop_moving (rate : Nat) (h : m.motion ≠ .still) : m.startStop rate =
    if m.speedSq ≤ square m.profile.vstop then
      ({ m.stand with goal := .standstill, reversing := false, rate := rate }, .standstill)
    else ({ m with goal := .standstill, reversing := false, motion := .decel, rate := rate }, .none) := by
  unfold MG.startStop
  simp only [MG.isStill, h, beq_iff_eq, if_false]
  by_cases hs : m.speedSq ≤ square m.profile.vstop
  · rw [descend_slow { m with goal := .standstill, reversing := false } _ hs, if_pos hs]; rfl
  · rw [descend_fast { m with goal := .standstill, reversing := false } _ hs, if_neg hs]

/-- The motion state of a MOVE that goes on (R56), the final descent due or not. -/
theorem positionState_onward (e : Int) (h : ⌈m.stopDistance⌉ ≤ ((e - m.pos).natAbs : Int)) :
    ({ m with form := m.formOver m.speedSq (e - m.pos).natAbs } : MG).positionState e =
      if m.descentDue e then .decel else if square m.cruise < m.speedSq then .decel
      else if m.speedSq < square m.cruise ∨
          ¬ wholeSteps (rampDistance m.speedSq (square m.cruise) m.profile.accel) +
            wholeSteps (m.descentFrom (square m.cruise)) ≤ ((e - m.pos).natAbs : Int) then .accel
      else .cruise := by
  have hf : ¬ ((e - m.pos).natAbs : Int) < wholeSteps (m.descentFrom m.speedSq) := by
    rw [wholeSteps_eq]; exact not_lt.mpr h
  generalize hg : m.formOver m.speedSq (e - m.pos).natAbs = g
  rw [MG.formOver, if_neg hf] at hg
  have hd : ({ m with form := g } : MG).descentDue e = m.descentDue e := rfl
  unfold MG.positionState
  rw [hd]
  change (match g with
    | .flat => _
    | .settle => _
    | .triangle => if m.descentDue e then _ else _
    | .trapezoid => if m.descentDue e then _ else if square m.cruise < m.speedSq then _
      else if m.speedSq < square m.cruise then _ else _) = _
  by_cases h1 : square m.cruise < m.speedSq
  · rw [if_pos h1] at hg
    subst hg
    simp only [h1, if_true]
  · rw [if_neg h1] at hg
    split at hg
    · subst hg; simp only [if_false, not_true, or_false, *]
    · subst hg; simp only [if_false, not_false_eq_true, or_true, if_true, *]

end

/-! ### The motions begun -/

section
variable (m : MG)

/-- A reversal toward another position. -/
theorem reverse_toMove (e : Int) (c : Nat) (he : e ≠ m.pos) : (toMove m e c).reverse =
    if m.speedSq ≤ square m.profile.vstop then
      (({ m.stand with goal := .position e, cruise := c, reversing := false, rate := m.profile.decel } :
        MG).planFromStill e, .none)
    else ({ m with goal := .position e, cruise := c, motion := .decel, rate := m.profile.decel,
                   reversing := true }, .none) := by
  split
  · rw [reverse_slow (toMove m e c) ‹_›, restart_position (e := e) _ rfl]
    exact if_neg he
  · exact reverse_fast (toMove m e c) ‹_›

/-- A reversal toward a velocity. -/
theorem reverse_toRun (r : Int) : ({ m with goal := .velocity r, reversing := false } : MG).reverse =
    if m.speedSq ≤ square m.profile.vstop then
      (({ m.stand with goal := .velocity r, reversing := false, rate := m.profile.decel } :
        MG).rise (0 < r) r.natAbs, if r.natAbs ≤ m.profile.vstart then .velocityReached else .none)
    else ({ m with goal := .velocity r, motion := .decel, rate := m.profile.decel, reversing := true }, .none) := by
  split
  · rw [reverse_slow _ ‹_›, restart_velocity (r := r) _ rfl]; rfl
  · exact reverse_fast ({ m with goal := .velocity r, reversing := false } : MG) ‹_›

theorem stopDistance_eq : m.stopDistance =
    if square m.profile.vstop < m.speedSq then (m.speedSq - square m.profile.vstop) / (2 * (m.profile.decel : Rat))
    else 0 := rfl

/-- The distance to go to a position ahead. -/
theorem toGo_ahead (e : Int) (h : if m.positive then m.pos < e else e < m.pos) :
    m.toGo e = (((e - m.pos).natAbs : Int) : Rat) - m.frac := by
  have hd : (if m.positive then e - m.pos else m.pos - e) = ((e - m.pos).natAbs : Int) := by
    split at h <;> simp only [*, if_true, Bool.false_eq_true, if_false] <;> omega
  rw [MG.toGo, hd]

end

/-- A MOVE keeps its end position and its cruise speed, a RUN its velocity, as the goal. -/
theorem startMove_goal (m : MG) (e : Int) (c : Nat) :
    (m.startMove e c).1.goal = .position e ∧ (m.startMove e c).1.cruise = c := by
  rw [startMove_eq]
  by_cases he : e = m.pos
  · rw [if_pos he]; exact ⟨rfl, rfl⟩
  rw [if_neg he]
  by_cases hs : m.motion = .still
  · rw [if_pos hs]; exact ⟨rfl, rfl⟩
  rw [if_neg hs]
  by_cases ha : (if m.positive then m.pos < e else e < m.pos) ∧ ⌈m.stopDistance⌉ ≤ ((e - m.pos).natAbs : Int)
  · rw [if_pos ha]; exact ⟨rfl, rfl⟩
  rw [if_neg ha, reverse_toMove m e c he]
  by_cases hq : m.speedSq ≤ square m.profile.vstop
  · rw [if_pos hq]; exact ⟨rfl, rfl⟩
  · rw [if_neg hq]; exact ⟨rfl, rfl⟩

theorem startRun_goal (m : MG) (r : Int) : (m.startRun r).1.goal = .velocity r := by
  by_cases hs : m.motion = .still
  · rw [startRun_still m r hs]
    split <;> rfl
  · by_cases h0 : r = 0
    · subst h0
      rw [startRun_zero m hs]
      split <;> rfl
    · rw [startRun_moving m r hs h0]
      dsimp only
      split
      · split
        · rfl
        · split <;> rfl
      · rw [reverse_toRun]
        split <;> rfl

theorem startStop_goal (m : MG) (rate : Nat) : (m.startStop rate).1.goal = .standstill := by
  by_cases hs : m.motion = .still
  · rw [startStop_still m rate hs]
  · rw [startStop_moving m rate hs]
    split <;> rfl

/-- Settles O24: the equations of the motions begun, field by field. -/
theorem moveFromStandstillIsPlanned : Obligations.MoveFromStandstillIsPlanned := by
  refine ⟨fun m e c hs => ?_, fun m => ?_⟩
  · dsimp only
    refine ⟨fun he => ?_, fun he => ?_⟩
    · rw [startMove_eq, if_pos he]; exact ⟨rfl, hs⟩
    · rw [startMove_eq, if_neg he, if_pos hs]
      refine ⟨rfl, rfl, rfl, rfl, rfl, rfl, ?_⟩
      have h := planFromStill_form (toMove m e c) e
      rw [descentDistance_square, descentDistance_square] at h
      exact h
  · intro w stop sq still goesOn reverses rises
    have hw : w = square m.profile.vstop := rfl
    refine ⟨?_, ?_, ?_, fun x => ?_⟩
    · intro e c hs
      dsimp only
      refine ⟨(startMove_goal m e c).1, (startMove_goal m e c).2, fun he => ?_, fun he ha hd => ?_, fun he hn => ?_⟩
      · rw [startMove_eq, if_pos he]; exact ⟨rfl, ⟨rfl, rfl, rfl, rfl, rfl⟩, rfl⟩
      · rw [startMove_eq, if_neg he, if_neg hs, if_pos ⟨ha, hd⟩]
        refine ⟨rfl, ⟨rfl, rfl, rfl, rfl, rfl⟩, ?_⟩
        have h := positionState_onward (toMove m e c) e hd
        rw [wholeSteps_eq, wholeSteps_eq] at h
        have hdue : (toMove m e c).descentDue e =
            decide (w < m.speedSq ∧ (((e - m.pos).natAbs : Int) : Rat) - m.frac ≤ stop) := by
          rw [← toGo_ahead m e ha, Bool.decide_and]; rfl
        rw [hdue] at h
        simp only [decide_eq_true_eq] at h
        exact h
      · have e1 : m.startMove e c = (toMove m e c).reverse := by
          rw [startMove_eq, if_neg he, if_neg hs]
          exact if_neg hn
        rw [e1, reverse_toMove m e c he]
        by_cases hq : m.speedSq ≤ w
        · rw [if_pos hq, if_pos (hw ▸ hq)]
          exact ⟨⟨rfl, rfl, rfl, rfl, rfl⟩, rfl⟩
        · rw [if_neg hq, if_neg (hw ▸ hq)]
          exact ⟨rfl, rfl, rfl, rfl, rfl, rfl, rfl, rfl⟩
    · intro r
      dsimp only
      refine ⟨startRun_goal m r, fun hs h0 => ?_, fun hs h0 => ?_, fun hs h0 => ?_, fun hs h0 hd => ?_,
        fun hs h0 hd => ?_⟩
      · rw [startRun_still m r hs, if_pos h0]; exact ⟨rfl, hs, rfl, rfl, rfl, rfl, rfl⟩
      · rw [startRun_still m r hs, if_neg h0]; exact ⟨⟨rfl, rfl, rfl, rfl, rfl⟩, rfl, rfl⟩
      · subst h0
        rw [startRun_zero m hs]
        by_cases hq : m.speedSq ≤ w
        · rw [if_pos hq, if_pos (hw ▸ hq)]
          exact ⟨⟨rfl, rfl, rfl⟩, rfl⟩
        · rw [if_neg hq, if_neg (hw ▸ hq)]
          exact ⟨⟨rfl, rfl, rfl, rfl, rfl⟩, rfl, rfl, rfl⟩
      · have hsq : sq r.natAbs = square r.natAbs := rfl
        rw [startRun_moving m r hs h0]
        dsimp only
        rw [if_pos hd]
        rcases lt_trichotomy m.speedSq (square r.natAbs) with hlt | heq | hgt
        · rw [if_neg hlt.ne', if_pos hlt, hsq]
          exact ⟨⟨rfl, rfl, rfl, rfl, rfl⟩, fun h => absurd h hlt.ne', fun _ => ⟨rfl, rfl⟩,
            fun h => absurd h hlt.not_gt⟩
        · rw [if_pos heq.symm, hsq]
          exact ⟨⟨rfl, rfl, rfl, rfl, rfl⟩, fun _ => ⟨rfl, rfl⟩, fun h => absurd h heq.not_lt,
            fun h => absurd h heq.not_gt⟩
        · rw [if_neg hgt.ne, if_neg hgt.not_gt, hsq]
          exact ⟨⟨rfl, rfl, rfl, rfl, rfl⟩, fun h => absurd h hgt.ne, fun h => absurd h hgt.not_gt,
            fun _ => ⟨rfl, rfl, rfl⟩⟩
      · rw [startRun_moving m r hs h0]
        dsimp only
        rw [if_neg hd, reverse_toRun]
        by_cases hq : m.speedSq ≤ w
        · rw [if_pos hq, if_pos (hw ▸ hq)]
          exact ⟨⟨rfl, rfl, rfl, rfl, rfl⟩, rfl⟩
        · rw [if_neg hq, if_neg (hw ▸ hq)]
          exact ⟨rfl, rfl, rfl, rfl, rfl, rfl, rfl, rfl⟩
    · intro rate
      dsimp only
      refine ⟨startStop_goal m rate, fun hs => ?_, fun hs => ?_⟩
      · rw [startStop_still m rate hs]; exact ⟨rfl, hs, rfl, rfl, rfl, rfl, rfl⟩
      · rw [startStop_moving m rate hs]
        by_cases hq : m.speedSq ≤ w
        · rw [if_pos hq, if_pos (hw ▸ hq)]
          exact ⟨⟨rfl, rfl, rfl⟩, rfl⟩
        · rw [if_neg hq, if_neg (hw ▸ hq)]
          exact ⟨⟨rfl, rfl, rfl, rfl, rfl⟩, rfl, rfl, rfl⟩
    · simp [MG.startDwell]

end Sys2Proof.Proofs

/-! The events of a moving MG (chapter 3): the end of a phase, the step, and the timed events that bring them. -/

namespace Sys2Proof.Proofs

open Sys2Proof.Machine Sys2Proof.Safety Sys2Proof.Laws

/-! ### The end of a phase -/

section
variable (m : MG)

theorem endPhaseNow_eq {y : Rat} (h : m.phaseEnd = some y) : m.endPhaseNow = (m.travel y).endPhase := by
  simp only [MG.endPhaseNow, h]

theorem endPhaseNow_none (h : m.phaseEnd = none) : m.endPhaseNow = (m, .none) := by
  simp only [MG.endPhaseNow, h]

theorem restart_cases : m.restart =
      ({ m.stand with reversing := false }, .targetReached) ∧ m.goal = .position m.pos ∨
    (∃ e, e ≠ m.pos ∧ m.goal = .position e ∧
      m.restart = (({ m.stand with reversing := false } : MG).planFromStill e, .none)) ∨
    (∃ r, m.goal = .velocity r ∧
      m.restart = ((({ m.stand with reversing := false } : MG).rise (0 < r) r.natAbs),
        if r.natAbs ≤ m.profile.vstart then .velocityReached else .none)) ∨
    ((∀ e, m.goal ≠ .position e) ∧ (∀ r, m.goal ≠ .velocity r) ∧
      m.restart = ({ m.stand with reversing := false }, .standstill)) := by
  cases hg : m.goal with
  | position e =>
    rw [restart_position m hg]
    by_cases he : e = m.pos
    · rw [if_pos he]; exact .inl ⟨rfl, by rw [he]⟩
    · rw [if_neg he]; exact .inr (.inl ⟨e, he, rfl, rfl⟩)
  | velocity r => rw [restart_velocity m hg]; exact .inr (.inr (.inl ⟨r, rfl, rfl⟩))
  | _ =>
    refine .inr (.inr (.inr ⟨by simp, by simp, ?_⟩))
    unfold MG.restart
    dsimp only
    split
    · rename_i hx; have := hx.symm.trans hg; cases this
    · rename_i hx; have := hx.symm.trans hg; cases this
    · rfl

/-- What the second part of a reversal keeps, and where it stands. -/
theorem restart_keeps : (m.restart.1.pos = m.pos ∧ m.restart.1.pulses = m.pulses ∧
    m.restart.1.profile = m.profile ∧ m.restart.1.goal = m.goal ∧ m.restart.1.watchers = m.watchers) ∧
    m.restart.1.reversing = false ∧ m.restart.1.frac = 0 ∧
    (m.restart.2 = .targetReached ∨ m.restart.2 = .standstill →
      m.restart.1.motion = .still ∧ m.restart.1.speedSq = 0) := by
  rcases restart_cases m with ⟨h, _⟩ | ⟨e, _, hg, h⟩ | ⟨r, _, h⟩ | ⟨_, _, h⟩ <;> rw [h]
  · exact ⟨⟨rfl, rfl, rfl, rfl, rfl⟩, rfl, rfl, fun _ => ⟨rfl, rfl⟩⟩
  · exact ⟨⟨rfl, rfl, rfl, hg.symm, rfl⟩, rfl, rfl, by simp⟩
  · refine ⟨⟨rfl, rfl, rfl, rfl, rfl⟩, rfl, rfl, fun k => ?_⟩
    split at k <;> simp at k
  · exact ⟨⟨rfl, rfl, rfl, rfl, rfl⟩, rfl, rfl, fun _ => ⟨rfl, rfl⟩⟩

/-- What stands at the end of a phase, by the motion: nothing new, a standstill, the velocity reached, the next
state toward a position, or the new start of a reversal. -/
theorem endPhase_cases : m.endPhase = m.restart ∨ m.endPhase = (m.stand, .standstill) ∨
    (∃ q, m.endPhase = ({ m with speedSq := q }, .velocityReached)) ∨
    ∃ x, m.endPhase = ({ m with motion := x }, .none) := by
  unfold MG.endPhase
  split
  · exact .inr (.inl rfl)
  · split
    · exact .inl rfl
    · split
      · split
        · exact .inr (.inl rfl)
        · exact .inr (.inr (.inl ⟨_, rfl⟩))
      · exact .inr (.inr (.inr ⟨_, rfl⟩))
      · exact .inr (.inl rfl)
  · split
    · exact .inr (.inr (.inl ⟨_, rfl⟩))
    · exact .inr (.inr (.inr ⟨_, rfl⟩))
    · exact .inr (.inr (.inr ⟨_, rfl⟩))
  · split
    · exact .inr (.inr (.inr ⟨_, rfl⟩))
    · exact .inr (.inr (.inr ⟨_, rfl⟩))
  · exact .inr (.inr (.inr ⟨_, rfl⟩))
  · exact .inr (.inr (.inr ⟨_, rfl⟩))

theorem endPhase_keeps : (m.endPhase.1.pos = m.pos ∧ m.endPhase.1.pulses = m.pulses ∧
    m.endPhase.1.profile = m.profile ∧ m.endPhase.1.goal = m.goal ∧ m.endPhase.1.watchers = m.watchers) ∧
    (m.endPhase.2 = .targetReached ∨ m.endPhase.2 = .standstill →
      m.endPhase.1.motion = .still ∧ m.endPhase.1.speedSq = 0) := by
  rcases endPhase_cases m with h | h | ⟨q, h⟩ | ⟨x, h⟩ <;> rw [h]
  · obtain ⟨k, _, _, e⟩ := restart_keeps m
    exact ⟨k, e⟩
  · exact ⟨⟨rfl, rfl, rfl, rfl, rfl⟩, fun _ => ⟨rfl, rfl⟩⟩
  · exact ⟨⟨rfl, rfl, rfl, rfl, rfl⟩, by simp⟩
  · exact ⟨⟨rfl, rfl, rfl, rfl, rfl⟩, by simp⟩

/-- The end of a phase between steps makes no step. -/
theorem endPhaseNow_keeps : (m.endPhaseNow.1.pos = m.pos ∧ m.endPhaseNow.1.pulses = m.pulses ∧
    m.endPhaseNow.1.profile = m.profile ∧ m.endPhaseNow.1.goal = m.goal ∧
    m.endPhaseNow.1.watchers = m.watchers) ∧
    (m.endPhaseNow.2 = .targetReached ∨ m.endPhaseNow.2 = .standstill →
      m.endPhaseNow.1.motion = .still ∧ m.endPhaseNow.1.speedSq = 0) := by
  cases h : m.phaseEnd with
  | some y => rw [endPhaseNow_eq m h]; exact endPhase_keeps (m.travel y)
  | none => rw [endPhaseNow_none m h]; exact ⟨⟨rfl, rfl, rfl, rfl, rfl⟩, by simp⟩

/-! ### The step -/

/-- The MG after the travel of a step (R53), before what it brings. -/
def stepTravel : MG :=
  { m.travel (1 - m.frac) with frac := 0, pulses := m.pulses + 1,
                               pos := if m.positive then m.pos + 1 else m.pos - 1 }

theorem step_eq : m.step = if (stepTravel m).landed then ((stepTravel m).stand, .targetReached)
    else if m.phaseEnd == some (1 - m.frac) then (stepTravel m).endPhase else (stepTravel m, .none) := rfl

theorem landed_iff : m.landed = true ↔ m.goal = .position m.pos ∧ m.reversing = false := by
  unfold MG.landed
  split
  next e h => simp [h, and_comm]
  next h =>
    refine ⟨fun k => by simp at k, fun k => absurd k.1 (h _)⟩

/-- What a step keeps of the MG and what it makes of its event. -/
theorem step_keeps : (m.step.1.pos = (if m.positive then m.pos + 1 else m.pos - 1) ∧
    m.step.1.pulses = m.pulses + 1 ∧ m.step.1.profile = m.profile ∧ m.step.1.goal = m.goal ∧
    m.step.1.watchers = m.watchers) ∧
    (m.step.2 = .targetReached ∨ m.step.2 = .standstill → m.step.1.motion = .still ∧ m.step.1.speedSq = 0) := by
  rw [step_eq]
  by_cases hl : (stepTravel m).landed = true
  · rw [if_pos hl]; exact ⟨⟨rfl, rfl, rfl, rfl, rfl⟩, fun _ => ⟨rfl, rfl⟩⟩
  rw [if_neg hl]
  by_cases hp : (m.phaseEnd == some (1 - m.frac)) = true
  · rw [if_pos hp]; exact endPhase_keeps (stepTravel m)
  · rw [if_neg hp]; exact ⟨⟨rfl, rfl, rfl, rfl, rfl⟩, by simp⟩

/-- A step onto the end position lands. -/
theorem step_lands {e : Int} (hg : m.goal = .position e) (hr : m.reversing = false) (hp : m.step.1.pos = e) :
    m.step.2 = .targetReached := by
  have hl : (stepTravel m).landed = true := by
    refine (landed_iff _).2 ⟨?_, hr⟩
    change m.goal = .position (if m.positive then m.pos + 1 else m.pos - 1)
    rw [hg, ← hp, (step_keeps m).1.1]
  rw [step_eq, if_pos hl]

end

/-! ### The ends of the phases of a motion toward an end position -/

section
variable (m : MG)

theorem descentDue_iff (e : Int) : m.descentDue e = true ↔ square m.profile.vstop < m.speedSq ∧
    m.toGo e ≤ (m.speedSq - square m.profile.vstop) / (2 * (m.profile.decel : Rat)) := by
  simp only [MG.descentDue, Bool.and_eq_true, decide_eq_true_eq]
  refine and_congr_right fun h => ?_
  rw [stopDistance_eq, if_pos h]

theorem toGo_travel (y : Rat) (e : Int) : (m.travel y).toGo e = m.toGo e - y :=
  sub_add_eq_sub_sub _ _ _

theorem speedSq_travel (y : Rat) : (m.travel y).speedSq = m.speedAfter y := rfl

variable {m} {e : Int} {y : Rat}

theorem descentDue_travel (h : square m.profile.vstop < m.speedAfter y)
    (k : 2 * (m.profile.decel : Rat) * (m.toGo e - y) ≤ m.speedAfter y - square m.profile.vstop)
    (hd : 1 ≤ m.profile.decel) : (m.travel y).descentDue e = true := by
  have hd : (0 : Rat) < m.profile.decel := by exact_mod_cast hd
  refine (descentDue_iff _ e).2 ⟨h, ?_⟩
  rw [toGo_travel, speedSq_travel]
  refine (le_div_iff₀ (by positivity)).2 ?_
  change _ * (2 * (m.profile.decel : Rat)) ≤ m.speedAfter y - square m.profile.vstop
  linarith

/-- The end of a rise (R55): the cruise speed is reached, or the descent is due at a speed below it. -/
theorem rise_ends (hg : m.goal = .position e) (hm : m.motion = .accel) (ha : 1 ≤ m.profile.accel)
    (hd : 1 ≤ m.profile.decel) (hy : m.phaseEnd = some y) :
    (m.speedAfter y = m.speedSq + 2 * (m.profile.accel : Rat) * y ∨ m.speedAfter y = square m.cruise) ∧
    m.speedAfter y ≤ square m.cruise ∧
    ((m.travel y).descentDue e = true ∨ m.speedAfter y = square m.cruise) := by
  have hs : m.speedAfter y = if square m.cruise < m.speedSq + 2 * (m.profile.accel : Rat) * y then square m.cruise
      else m.speedSq + 2 * (m.profile.accel : Rat) * y := by
    simp only [MG.speedAfter, hm, hg]
  have pa : (0 : Rat) < m.profile.accel := by exact_mod_cast ha
  have pd : (0 : Rat) < m.profile.decel := by exact_mod_cast hd
  have capped (k : square m.cruise ≤ m.speedSq + 2 * (m.profile.accel : Rat) * y) :
      m.speedAfter y = square m.cruise := by
    rw [hs]; split
    · rfl
    · linarith
  simp only [MG.phaseEnd, hm, hg] at hy
  generalize hy0 : (2 * (m.profile.decel : Rat) * m.toGo e - m.speedSq + square m.profile.vstop) /
    (2 * ((m.profile.accel : Rat) + m.profile.decel)) = y0 at hy
  have meets : 2 * ((m.profile.accel : Rat) + m.profile.decel) * y0 =
      2 * (m.profile.decel : Rat) * m.toGo e - m.speedSq + square m.profile.vstop := by
    rw [← hy0]; field_simp
  by_cases hp : m.speedSq + 2 * (m.profile.accel : Rat) * y0 ≤ square m.cruise
  · rw [if_pos hp] at hy
    split at hy
    next hw =>
      obtain rfl : y0 = y := Option.some.inj hy
      have hs' : m.speedAfter y0 = m.speedSq + 2 * (m.profile.accel : Rat) * y0 := by
        rw [hs, if_neg (not_lt.2 hp)]
      exact ⟨.inl hs', hs' ▸ hp, .inl (descentDue_travel (hs' ▸ hw) (by rw [hs']; linarith) hd)⟩
    next => cases hy
  · rw [if_neg hp] at hy
    have full : m.speedAfter y = square m.cruise := by
      refine capped ?_
      split at hy
      · split at hy
        next hw =>
          have e1 : m.toGo e - m.descentFrom (square m.cruise) = y := Option.some.inj hy
          have e2 : m.descentFrom (square m.cruise) * (2 * (m.profile.decel : Rat)) =
              square m.cruise - square m.profile.vstop := by
            rw [MG.descentFrom, descentDistance, if_pos hw, rampDistance]
            field_simp
          have e3 : 2 * (m.profile.decel : Rat) * y0 ≤ 2 * (m.profile.decel : Rat) * y := by
            rw [← e1]; linarith
          have e4 : y0 ≤ y := le_of_mul_le_mul_left e3 (by positivity)
          have e5 : 2 * (m.profile.accel : Rat) * y0 ≤ 2 * (m.profile.accel : Rat) * y :=
            mul_le_mul_of_nonneg_left e4 (by positivity)
          linarith
        next => cases hy
      · have e1 : rampDistance m.speedSq (square m.cruise) m.profile.accel = y := Option.some.inj hy
        rw [← e1, rampDistance]
        have : 2 * (m.profile.accel : Rat) * ((square m.cruise - m.speedSq) / (2 * (m.profile.accel : Rat))) =
          square m.cruise - m.speedSq := by field_simp
        linarith
    exact ⟨.inr full, full.le, .inr full⟩

/-- The end of a cruise (R55): the descent is due. -/
theorem cruise_ends (hg : m.goal = .position e) (hm : m.motion = .cruise) (hd : 1 ≤ m.profile.decel)
    (hy : m.phaseEnd = some y) : m.speedAfter y = m.speedSq ∧ (m.travel y).descentDue e = true := by
  have hs : m.speedAfter y = m.speedSq := by simp only [MG.speedAfter, hm]
  have pd : (0 : Rat) < m.profile.decel := by exact_mod_cast hd
  simp only [MG.phaseEnd, hm, hg] at hy
  split at hy
  · cases hy
  · split at hy
    next hw =>
      have e1 : m.toGo e - m.stopDistance = y := Option.some.inj hy
      refine ⟨hs, descentDue_travel (hs ▸ hw) ?_ hd⟩
      rw [hs, ← e1, sub_sub_cancel, stopDistance_eq, if_pos hw]
      exact (by field_simp : 2 * (m.profile.decel : Rat) *
        ((m.speedSq - square m.profile.vstop) / (2 * (m.profile.decel : Rat))) = _).le
    next => cases hy

/-- The end of a fall to the cruise speed (R56). -/
theorem fall_ends (hg : m.goal = .position e) (hm : m.motion = .decel) (hr : m.reversing = false)
    (hd : 1 ≤ m.profile.decel) (hy : m.phaseEnd = some y) : m.speedAfter y = square m.cruise := by
  have pd : (0 : Rat) < m.profile.decel := by exact_mod_cast hd
  simp only [MG.phaseEnd, hm, hg, hr, Bool.false_eq_true, if_false, Bool.or_eq_true, decide_eq_true_eq] at hy
  split at hy
  · cases hy
  next hn =>
    simp only [not_or] at hn
    obtain ⟨⟨hf, hdue⟩, _⟩ := hn
    have e1 : rampDistance (square m.cruise) m.speedSq m.profile.decel = y := Option.some.inj hy
    have hs : m.speedAfter y = m.speedSq - 2 * (m.profile.decel : Rat) * y := by
      simp [MG.speedAfter, hm, hg, hr, hf, hdue]
    rw [hs, ← e1, rampDistance]
    have : 2 * (m.profile.decel : Rat) * ((m.speedSq - square m.cruise) / (2 * (m.profile.decel : Rat))) =
      m.speedSq - square m.cruise := by field_simp
    linarith

/-- The state of a trapezoid at the end of a phase. -/
theorem positionState_trapezoid (hf : m.form = .trapezoid) : m.positionState e =
    if m.descentDue e then .decel else if square m.cruise < m.speedSq then .decel
    else if m.speedSq < square m.cruise then .accel else .cruise := by
  simp only [MG.positionState, hf]

theorem endPhase_position (hg : m.goal = .position e)
    (hm : m.motion = .accel ∨ m.motion = .cruise ∨ m.motion = .decel ∧ m.reversing = false) :
    m.endPhase = ({ m with motion := m.positionState e }, .none) := by
  obtain h | h | ⟨h, k⟩ := hm
  · simp only [MG.endPhase, h, hg]
  · simp only [MG.endPhase, h, hg]
  · simp only [MG.endPhase, h, hg, k, Bool.false_eq_true, if_false]

end

/-! ### The timed events -/

section
variable {s : State} (a : Axis) (hr : s.resetHeld = false)
include hr

theorem exec_mgStep : ((s.mg a).stepNext = true → exec (.mgStep a) s = .next (s.stepped a).finish) ∧
    ((s.mg a).stepNext = false → exec (.mgStep a) s = .next s) := by
  refine ⟨fun h => ?_, fun h => ?_⟩
  · exact exec_some (c := .mgStep a) (by simp [effect, h]) hr
  · exact exec_none (c := .mgStep a) (by simp [effect, h]) rfl hr

theorem exec_profilePhaseEnd :
    ((s.mg a).phaseEndNext = true → exec (.profilePhaseEnd a) s = .next (s.phaseEnded a).finish) ∧
    ((s.mg a).phaseEndNext = false → exec (.profilePhaseEnd a) s = .next s) := by
  refine ⟨fun h => ?_, fun h => ?_⟩
  · exact exec_some (c := .profilePhaseEnd a) (by simp [effect, h]) hr
  · exact exec_none (c := .profilePhaseEnd a) (by simp [effect, h]) rfl hr

theorem exec_dwellExpiry :
    (∀ t, (s.mg a).goal = .dwell t →
      exec (.dwellExpiry a) s = .next ((s.reachTime t).complete a afterDwell).finish) ∧
    ((∀ t, (s.mg a).goal ≠ .dwell t) → exec (.dwellExpiry a) s = .next s) := by
  refine ⟨fun t h => ?_, fun h => ?_⟩
  · exact exec_some (c := .dwellExpiry a) (by simp only [effect, State.dwellExpired, h]) hr
  · refine exec_none (c := .dwellExpiry a) ?_ rfl hr
    simp only [effect, State.dwellExpired]

theorem exec_holdoffExpiry :
    (∀ t, s.moderator.timer = some t →
      exec .holdoffExpiry s = .next { s.reachTime t with moderator := s.moderator.expire }.finish) ∧
    (s.moderator.timer = none → exec .holdoffExpiry s = .next s) := by
  refine ⟨fun t h => ?_, fun h => ?_⟩
  · exact exec_some (c := .holdoffExpiry) (by simp only [effect, State.holdoffExpired, h]) hr
  · exact exec_none (c := .holdoffExpiry) (by simp only [effect, State.holdoffExpired, h]) rfl hr

end

/-- Settles O22: the end of a phase by the motion and the goal, and then the four events where they are due. -/
theorem timedEventsTakePlace : Obligations.TimedEventsTakePlace := by
  refine ⟨fun m y hy => ?_, fun s a hr => ?_⟩
  · have he : m.endPhaseNow = (m.travel y).endPhase := endPhaseNow_eq m hy
    intro p n w c toGo due falls
    have hp : p = (m.travel y).endPhase := he
    refine ⟨fun h => ?_, fun r hg hm => ?_, fun r hg h0 hf => ?_, fun e hg ha hd hm => ?_, fun hm hv => ?_⟩
    · obtain h | ⟨⟨h, k⟩, g⟩ := h
      · simp only [MG.phaseEnd, h, Option.some.injEq] at hy
        exact ⟨hy.symm, by rw [hp]; simp only [MG.endPhase, MG.travel, MG.stand, h]⟩
      · obtain g | g := g
        · simp only [MG.phaseEnd, h, k, g, Bool.false_eq_true, if_false, Option.some.injEq] at hy
          exact ⟨hy.symm, by
            rw [hp]; simp only [MG.endPhase, MG.travel, MG.stand, h, k, g, Bool.false_eq_true, if_false]⟩
        · simp only [MG.phaseEnd, h, k, g, Bool.false_eq_true, if_false, if_true, Option.some.injEq] at hy
          exact ⟨hy.symm, by
            rw [hp]; simp only [MG.endPhase, MG.travel, MG.stand, h, k, g, Bool.false_eq_true, if_false, if_true]⟩
    · simp only [MG.phaseEnd, hm, hg, Option.some.injEq] at hy
      exact ⟨hy.symm, by rw [hp]; simp only [MG.endPhase, MG.travel, hm, hg]; rfl⟩
    · obtain ⟨h, k⟩ := hf
      simp only [MG.phaseEnd, h, k, hg, h0, Bool.false_eq_true, if_false, Option.some.injEq] at hy
      exact ⟨hy.symm, by
        rw [hp]; simp only [MG.endPhase, MG.travel, h, k, hg, h0, Bool.false_eq_true, if_false]; rfl⟩
    · have hp' : p = ({ m.travel y with motion := (m.travel y).positionState e }, .none) :=
        hp.trans (endPhase_position (m := m.travel y) hg hm)
      have hn : n = { m.travel y with motion := (m.travel y).positionState e } := congrArg Prod.fst hp'
      have hq : n.speedSq = m.speedAfter y := by rw [hn]; rfl
      have hdue : due e ↔ (m.travel y).descentDue e = true := by
        rw [descentDue_iff]
        simp only [due, toGo, hn]
        rfl
      have hend : due e ∨ n.speedSq = c := by
        rw [hdue, hq]
        obtain h | h | ⟨h, k⟩ := hm
        · exact (rise_ends hg h ha hd hy).2.2
        · exact .inl (cruise_ends hg h hd hy).2
        · exact .inr (fall_ends hg h k hd hy)
      refine ⟨?_, fun hf => ?_, fun h => ?_, fun h => ?_, fun ⟨h, k⟩ => ?_⟩
      · rw [hp']; simp only [hn]; rfl
      · have hmo : n.motion = (m.travel y).positionState e := by rw [hn]
        rw [hmo, positionState_trapezoid (m := m.travel y) hf]
        refine ⟨fun k => by rw [if_pos (hdue.1 k)], fun k => ?_⟩
        have hc : n.speedSq = c := hend.resolve_left k
        have hc' : (m.travel y).speedSq = square m.cruise := hq.symm.trans hc
        rw [if_neg (fun j => k (hdue.2 j))]
        change _ ∧ (if square m.cruise < (m.travel y).speedSq then _ else
          if (m.travel y).speedSq < square m.cruise then _ else _) = _
        rw [hc', if_neg (lt_irrefl _), if_neg (lt_irrefl _)]
        exact ⟨hc, rfl⟩
      · obtain ⟨h1, h2, h3⟩ := rise_ends hg h ha hd hy
        rw [hq]
        exact ⟨h1, h2, hq ▸ hend⟩
      · obtain ⟨h1, h2⟩ := cruise_ends hg h hd hy
        exact ⟨hq.trans h1, hdue.2 h2⟩
      · exact hq.trans (fall_ends hg h k hd hy)
    · have hp' : p = (m.travel y).restart := hp.trans (by
        simp only [MG.endPhase, MG.travel, hm, hv, if_true])
      have hn : n = (m.travel y).restart.1 := congrArg Prod.fst hp'
      obtain ⟨⟨kp, _, _, _, _⟩, kr, kf, _⟩ := restart_keeps (m.travel y)
      refine ⟨by rw [hn, kr], by rw [hn, kp]; rfl, by rw [hn, kf], fun e hg => ⟨fun h => ?_, fun h => ?_⟩, fun r hg => ?_⟩
      · have hx := restart_position (e := e) (m.travel y) hg
        rw [if_pos (show e = (m.travel y).pos from h)] at hx
        rw [hn, hp', hx]; exact ⟨rfl, rfl⟩
      · have hx := restart_position (e := e) (m.travel y) hg
        rw [if_neg (show ¬ e = (m.travel y).pos from h)] at hx
        rw [hn, hp', hx]; exact ⟨rfl, rfl, rfl⟩
      · have hx := restart_velocity (r := r) (m.travel y) hg
        rw [hn, hp', hx]; exact ⟨rfl, rfl, rfl⟩
  · obtain ⟨h1, h2⟩ := exec_mgStep a hr
    obtain ⟨h3, h4⟩ := exec_profilePhaseEnd a hr
    obtain ⟨h5, h6⟩ := exec_dwellExpiry a hr
    obtain ⟨h7, h8⟩ := exec_holdoffExpiry hr
    exact ⟨h1, h2, h3, h4, h5, h6, h7, h8⟩

/-! ### What a step brings its axis -/

section
variable (s : State) (a : Axis)

@[simp] theorem modMg_self : (s.modMg a fun m => m) = s := by
  have h : setAt s.axes a (s.axes.get a) = s.axes := by simp [setAt, Vector.get_eq_getElem]
  change { s with axes := setAt s.axes a (s.axes.get a) } = s
  rw [h]

theorem modMg_const (f : MG → MG) : s.modMg a f = s.modMg a fun _ => f (s.mg a) := rfl

theorem cfg_stepped_before (b : Axis) (p : MG × MgEvent) (positive homing : Bool) :
    (((((s.modMg a fun _ => p.1).followPosBlocks a).serveWatchers a).takeStep a positive homing p).cfg b) =
      s.cfg b := by
  have h : kept ((s.modMg a fun _ => p.1).followPosBlocks a) = kept s := by
    unfold State.followPosBlocks
    split
    · exact kept_modMg s a _
    · exact (kept_modSeq _ a _).trans (kept_modMg s a _)
  have k := ((does_takeStep _ a positive homing p).kept.trans (does_serveWatchers _ a).kept).trans h
  exact congrFun (congrArg Kept.cfgs k) b

theorem velocity_motion (m : MG) (x : MotionState) : ({ m with motion := x } : MG).velocity = m.velocity := rfl

theorem complete_id : s.complete a id = s.completionEvent a (s.mg a).velocity := by
  simp only [State.complete, id]
  rw [modMg_self]

theorem complete_motion (x : MotionState) : (s.complete a fun _ => x) =
    (s.modMg a fun m => { m with motion := x }).completionEvent a (s.mg a).velocity := by
  simp only [State.complete, mg_modMg, if_true, velocity_motion]

end

/-! ### The event of the MG at its axis (R52) -/

section
variable {s : State} {a : Axis} {ev : MgEvent}

theorem takeMgEvent_halting (h : (s.seq a).sq = .halting) :
    s.takeMgEvent a ev = if (s.mg a).motion = .still then s.setSq a .halted else s := by
  simp only [State.takeMgEvent, h, isStill_iff]

theorem takeMgEvent_other (h : (s.seq a).sq ≠ .halting) (k : (s.seq a).sq ≠ .run) : s.takeMgEvent a ev = s := by
  unfold State.takeMgEvent
  split
  · exact absurd ‹_› h
  · exact absurd ‹_› k
  · rfl

theorem takeMgEvent_run {b : SegBody} (h : (s.seq a).sq = .run) (hb : s.activeBody a = some b) :
    s.takeMgEvent a ev = s.takeActive a b ev := by
  simp only [State.takeMgEvent, h, hb]

end

section
variable (s : State) (a : Axis)

theorem homeActive_iff (q : Seq) : q.homeActive = true ↔ q.homing ≠ none := by
  simp [Seq.homeActive, Option.isSome_iff_ne_none]

theorem followPosBlocks_eq : s.followPosBlocks a =
    if (s.seq a).homing = none then s.recomputePosBlocks a else s := by
  unfold State.followPosBlocks
  by_cases h : (s.seq a).homing = none
  · rw [if_pos h, if_neg (by simp [homeActive_iff, h])]
  · rw [if_neg h, if_pos ((homeActive_iff _).2 h)]

theorem atRangeEnd_iff (positive : Bool) (p : Int) :
    atRangeEnd positive p = true ↔ p = (if positive then posMax else posMin) := by
  cases positive <;> simp [atRangeEnd]

theorem takeStep_eq (positive homing : Bool) (p : MG × MgEvent) : s.takeStep a positive homing p =
    let last : Prop := p.1.pos = (if positive then posMax else posMin)
    let taken := if last ∧ homing = true ∧ p.2 = .targetReached then s else s.takeMgEvent a p.2
    if last ∧ (homing = true ∨ p.2 ≠ .targetReached) then taken.rangeEnd a positive else taken := by
  unfold State.takeStep
  dsimp only
  refine if_congr ?_ ?_ ?_
  · simp [atRangeEnd_iff]
  · congr 1
    refine if_congr ?_ rfl rfl
    simp only [Bool.and_eq_true, Bool.or_eq_true, atRangeEnd_iff, beq_iff_eq, Bool.not_eq_true', beq_eq_false_iff_ne]
    tauto
  · refine if_congr ?_ rfl rfl
    simp only [Bool.and_eq_true, Bool.or_eq_true, atRangeEnd_iff, beq_iff_eq, Bool.not_eq_true', beq_eq_false_iff_ne]
    tauto

/-- A step goes beyond a bound where it begins on it. -/
theorem crossesOut_iff (c : AxisConfig) (positive : Bool) (old new : Int)
    (h : new = if positive then old + 1 else old - 1) :
    crossesOut c positive old new = true ↔
      c.softLimits = true ∧ (if positive then old = c.hi else old = c.lo) := by
  subst h
  cases positive <;> simp [crossesOut]

end

theorem stepped_eq (s : State) (a : Axis) : s.stepped a =
    let p := (s.mg a).step
    let t := (((s.modMg a fun _ => p.1).followPosBlocks a).serveWatchers a).takeStep a (s.mg a).positive
      (s.seq a).homeActive p
    (if (!(s.seq a).homeActive && crossesOut (t.cfg a) (s.mg a).positive (s.mg a).pos p.1.pos) = true then
      t.haltCause a (softReason (s.mg a).positive) .soft false else t).testDeviation a := rfl

/-! ### What an active segment makes of the event -/

section
variable (s : State) (a : Axis) (b : SegBody) (ev : MgEvent)

theorem takeActive_run (h : ∃ r f, b.work = .run r f) : s.takeActive a b .velocityReached =
    (s.modMg a fun m => { m with motion := .hold }).completionEvent a (s.mg a).velocity := by
  obtain ⟨r, f, h⟩ := h
  simp only [State.takeActive, h, complete_motion]

theorem takeActive_home (h : ∃ o v x y, b.work = .home o v x y) : s.takeActive a b .velocityReached =
    s.modMg a fun m => { m with motion := .cruise } := by
  obtain ⟨o, v, x, y, h⟩ := h
  simp only [State.takeActive, h]

theorem takeActive_home_still {x : HomeState} (h : ∃ o v x y, b.work = .home o v x y)
    (k : (s.seq a).homing = some x) : s.takeActive a b .standstill = s.homeStandstill a x b ∧
    s.takeActive a b .targetReached = s.settleEnd a x b := by
  obtain ⟨o, v, p, q, h⟩ := h
  simp only [State.takeActive, h, k, and_self]

theorem takeActive_velocity_other (h : ¬ ∃ r f, b.work = .run r f) (k : ¬ ∃ o v x y, b.work = .home o v x y) :
    s.takeActive a b .velocityReached = s := by
  unfold State.takeActive
  cases hw : b.work with
  | run r f => exact absurd ⟨r, f, hw⟩ h
  | home o v x y => exact absurd ⟨o, v, x, y, hw⟩ k
  | _ => rfl

theorem takeActive_ends (k : ¬ ∃ o v x y, b.work = .home o v x y) (he : ev = .standstill ∨ ev = .targetReached) :
    s.takeActive a b ev = s.completionEvent a (s.mg a).velocity := by
  rw [← complete_id]
  unfold State.takeActive
  cases hw : b.work with
  | home o v x y => exact absurd ⟨o, v, x, y, hw⟩ k
  | _ => obtain rfl | rfl := he <;> rfl

theorem takeActive_none : s.takeActive a b .none = s := rfl

theorem takeActive_holds : s.takeActive a b .holds = s.completionEvent a (s.mg a).velocity := by
  rw [← complete_id]; rfl

end

/-- Settles O23: the two events of the MG, the order of the tests at a step, and the event at the axis. -/
theorem stepMovesByOne : Obligations.StepMovesByOne := by
  refine ⟨fun m => ?_, fun s a => ?_, fun s a ev => ?_⟩
  · obtain ⟨h1, h2⟩ := endPhaseNow_keeps m
    obtain ⟨⟨k1, k2, k3, k4, k5⟩, k6⟩ := step_keeps m
    exact ⟨h1, h2, k1, k2, k3, k4, k5, k6, fun e hg hr hp => step_lands m hg hr hp⟩
  · intro m p c home why last out moved served taken ended crossed
    have hserved : ((s.modMg a fun _ => p.1).followPosBlocks a).serveWatchers a = served := by
      rw [followPosBlocks_eq, seq_modMg]
    have hhome : (s.seq a).homeActive = true ↔ home := homeActive_iff _
    have hended : served.takeStep a m.positive (s.seq a).homeActive p = ended := by
      rw [takeStep_eq]
      dsimp only
      have htaken : (if p.1.pos = (if m.positive then posMax else posMin) ∧ (s.seq a).homeActive = true ∧
          p.2 = .targetReached then served else served.takeMgEvent a p.2) = taken :=
        if_congr (and_congr_right fun _ => and_congr_left fun _ => hhome) rfl rfl
      rw [htaken]
      exact if_congr (and_congr_right fun _ => or_congr_left hhome) rfl rfl
    have hout : (!(s.seq a).homeActive && crossesOut (ended.cfg a) m.positive m.pos p.1.pos) = true ↔ out := by
      have hc : ended.cfg a = c := by
        rw [← hended, ← hserved]; exact cfg_stepped_before s a a p _ _
      rw [hc, Bool.and_eq_true, crossesOut_iff c _ _ _ (step_keeps m).1.1, Bool.not_eq_true',
        ← Bool.not_eq_true, hhome]
      simp only [home, not_not]
      exact and_left_comm
    rw [stepped_eq]
    dsimp only
    rw [hserved, hended]
    by_cases hx : out
    · have hc : crossed = ended.haltCause a why .soft false := if_pos hx
      rw [if_pos (hout.2 hx), hc]; rfl
    · have hc : crossed = ended := if_neg hx
      rw [if_neg (fun k => hx (hout.1 k)), hc]
  · refine ⟨fun h k => ?_, fun h k => ?_, fun h k => takeMgEvent_other h k, fun b h hb => ?_⟩
    · rw [takeMgEvent_halting h, if_pos k]
    · rw [takeMgEvent_halting h, if_neg k]
    · rw [takeMgEvent_run h hb]
      intro t u home run
      refine ⟨?_, ?_, ?_, ?_, takeActive_ends s a b ev, ?_, fun x hx hh => ⟨?_, ?_⟩⟩
      · rintro rfl; exact takeActive_none s a b
      · rintro rfl; exact takeActive_holds s a b
      · rintro hr rfl; exact takeActive_run s a b hr
      · rintro hr hh rfl; exact takeActive_velocity_other s a b hr hh
      · rintro hh rfl; exact takeActive_home s a b hh
      · rintro rfl; exact (takeActive_home_still s a b hx hh).1
      · rintro rfl; exact (takeActive_home_still s a b hx hh).2

end Sys2Proof.Proofs

/-! The transfers of the bus-master port and the ends of the drain and of a fault (chapters 1, 9 and 10). -/

namespace Sys2Proof.Proofs

open Sys2Proof.Machine Sys2Proof.Safety Sys2Proof.Laws

/-! ### The fetch completion of an axis ring -/

section
variable (s : State) (a : Axis)

theorem seq_barrierPass (b : Axis) : (s.barrierPass a).seq b = s.seq b := by
  obtain ⟨c, h⟩ := barrierPass_eq s a
  rw [h]; rfl

theorem seq_raiseUse (k : Option BankNo) (b : Axis) : (s.raiseUse k).seq b = s.seq b := by
  obtain ⟨v, h⟩ := raiseUse_eq s k
  rw [h]; rfl

theorem joinRecord_eq (r : Record) : s.joinRecord a r =
    let e := freshEntry r (s.ring (axisRing a)).seqNo
    let u := ((s.modRing (axisRing a) fun x => { x with fetch := .idle }.pass 1).barrierPass a).raiseUse
      e.seg.bankUse
    let t := u.modSeq a fun q => { q with window := q.window ++ [e] }
    if (s.seq a).sq = .empty then t.arm a else t := by
  have h (t : State) (e : Entry) (k : (t.seq a).sq = (s.seq a).sq) :
      ((t.modSeq a fun q => { q with window := q.window ++ [e] }).seq a).sq = (s.seq a).sq := by
    simp [k]
  unfold State.joinRecord
  dsimp only
  rw [h _ _ (by rw [seq_raiseUse, seq_barrierPass]; rfl)]

end

/-- Settles O26, by the state of the ring's fetch. -/
theorem fetchCompletionJoinsTheWindow : Obligations.FetchCompletionJoinsTheWindow := by
  intro s a r hr x e u t
  have joined (h : x.fetch = .inFlight) : exec (.fetchCompletion a r) s = .next (s.joinRecord a r).finish := by
    refine exec_some (c := .fetchCompletion a r) ?_ hr
    simp only [effect, State.fetchCompleted, show (s.ring (axisRing a)).fetch = .inFlight from h]
  refine ⟨fun h => ?_, fun h => ?_, fun h k => ?_, fun h k => ?_⟩
  · refine exec_none (c := .fetchCompletion a r) ?_ rfl hr
    simp only [effect, State.fetchCompleted, show (s.ring (axisRing a)).fetch = .idle from h]
  · refine exec_some (c := .fetchCompletion a r) ?_ hr
    simp only [effect, State.fetchCompleted, show (s.ring (axisRing a)).fetch = .discard from h]
  · rw [joined h, joinRecord_eq]
    dsimp only
    rw [if_pos k]
    rfl
  · rw [joined h, joinRecord_eq]
    dsimp only
    rw [if_neg k]
    rfl

/-! ### What begins where its conditions hold -/

section
variable (s : State)

theorem not_active (h : s.dev ≠ .run) (k : s.dev ≠ .drain) : s.active = false := by
  simp [State.active, h, k]

theorem beginCplWrite_eq {c : Completion} {rest : List Completion} (hw : s.queue.writing = none)
    (hf : s.queue.filled = c :: rest) (ha : s.active = true) : s.beginCplWrite =
    if s.cpl.outstanding < s.cpl.size then
      { s with queue := { s.queue with filled := rest, writing := some c } } else s := by
  simp only [State.beginCplWrite, hw, hf, ha, Bool.true_and, decide_eq_true_eq]

theorem mayFetch_iff (a : Axis) : s.mayFetch a = true ↔ s.dev = .run ∧ live s a ∧
    (s.ring (axisRing a)).fetch = .idle ∧ (s.seq a).window.length < 4 ∧
    (s.ring (axisRing a)).prod ≠ (s.ring (axisRing a)).cons := by
  have hl : (match (s.seq a).sq with
      | .empty | .wait _ | .run => true
      | _ => false) = true ↔ live s a := by
    unfold live
    cases (s.seq a).sq <;> simp
  unfold State.mayFetch
  simp only [Bool.and_eq_true, beq_iff_eq, decide_eq_true_eq, bne_iff_ne, and_assoc]
  exact and_congr_right fun _ => and_congr_left fun _ => hl

theorem cteClaim_iff : s.cteClaim =
    if s.cte = .idle ∧ s.dev = .run ∧ (s.ring ctl).prod ≠ (s.ring ctl).cons then { s with cte := .claim } else s := by
  unfold State.cteClaim
  refine if_congr ?_ rfl rfl
  simp [and_assoc]

end

/-- Settles O29. -/
theorem cplWriteBeginsWithRoom : Obligations.CplWriteBeginsWithRoom := by
  refine ⟨fun s c rest hw hf hd => ?_, fun s h k => ?_, fun s a => ?_, fun s => ?_⟩
  · have ha : s.active = true := (active_iff s).2 hd
    intro out
    refine ⟨fun ho => ?_, fun ho => ?_⟩
    · have e := (beginCplWrite_eq s hw hf ha).trans (if_pos ho)
      refine ⟨e, ?_⟩
      rw [e, State.cplPort]
      refine (if_pos ha).trans ?_
      rfl
    · exact (beginCplWrite_eq s hw hf ha).trans (if_neg (not_lt.2 ho))
  · have ha := not_active s h k
    refine ⟨by simp [State.cplPort, ha], beginCplWrite_of_inactive ha⟩
  · exact ⟨fun h => if_pos ((mayFetch_iff s a).2 h), fun h => if_neg fun k => h ((mayFetch_iff s a).1 k)⟩
  · exact ⟨fun h => (cteClaim_iff s).trans (if_pos h), fun h => (cteClaim_iff s).trans (if_neg h)⟩

/-! ### Write completions -/

theorem word_append (r : Ring) : r.word = r.seqNo ++ BitVec.ofNat 16 r.cons := by
  have h (x y : BitVec 16) : y.setWidth 32 ||| (x.setWidth 32 <<< 16) = x ++ y := by
    refine BitVec.eq_of_getLsbD_eq fun i hi => ?_
    have split : (x ++ y).getLsbD i = if i < 16 then y.getLsbD i else x.getLsbD (i - 16) :=
      BitVec.getLsbD_append
    rw [split]
    simp only [BitVec.getLsbD_or, BitVec.getLsbD_shiftLeft, BitVec.getLsbD_setWidth, hi, decide_true,
      Bool.true_and, show i - 16 < 32 by omega]
    by_cases h : i < 16
    · simp [h]
    · simp [h, BitVec.getLsbD_of_ge y i (by omega)]
  exact h r.seqNo (BitVec.ofNat 16 r.cons)

theorem countNotify_eq (m : Moderator) (now : Time) (h : m.count ≤ 255) :
    m.countNotify now = { m with
      count := min (m.count + 1) 255
      causeCount := m.causeCount || decide (m.threshold ≤ min (m.count + 1) 255)
      timer :=
        if m.holdoff ≠ 0 ∧ m.timer = none ∧ m.causeHoldoff = false then some (now + BitVec.ofNat 32 m.holdoff)
        else m.timer } := by
  have hn : (if m.count < 255 then m.count + 1 else m.count) = min (m.count + 1) 255 := by
    split <;> omega
  unfold Moderator.countNotify
  dsimp only
  rw [hn]
  have ht : (m.holdoff != 0 && m.timer.isNone && !m.causeHoldoff) = true ↔
      m.holdoff ≠ 0 ∧ m.timer = none ∧ m.causeHoldoff = false := by
    simp [and_assoc]
  congr 1
  exact if_congr ht rfl rfl

/-- Settles O30. -/
theorem writeCompletionsEndTheirWrite : Obligations.WriteCompletionsEndTheirWrite := by
  refine ⟨fun m now h => countNotify_eq m now h, fun s hr => ⟨fun c hd hw => ?_, fun hw => ?_, fun r => ?_⟩⟩
  · refine exec_some (c := .cplWriteCompletion) ?_ hr
    simp [effect, (active_iff s).2 hd, State.completeCplWrite, hw]
  · exact exec_none (c := .cplWriteCompletion) (by simp [effect, hw]) rfl hr
  · have again (h : (s.ring r).report ≠ .idle) :
        exec (.reportWriteCompletion r) s = .next (s.modRing r Ring.completeReport).finish :=
      exec_some (c := .reportWriteCompletion r) (by simp [effect, h]) hr
    have here (f g : Ring → Ring) (h : f (s.ring r) = g (s.ring r)) : s.modRing r f = s.modRing r g := by
      simp only [State.modRing, h]
    refine ⟨fun w h => ?_, fun w h => ?_, fun h => ?_⟩
    · rw [again (by rw [h]; simp), here _ (fun x => { x with report := .writing x.word false })
        (by simp only [Ring.completeReport, h])]
      simp only [word_append]
    · rw [again (by rw [h]; simp), here _ (fun x => { x with report := .idle })
        (by simp only [Ring.completeReport, h])]
    · exact exec_none (c := .reportWriteCompletion r) (by simp [effect, h]) rfl hr

/-! ### Watchers and windows dropped -/

/-- Changes of the axes alone, one for each item of a list, are a change of the axes alone. -/
theorem forEach_axes {α : Type} {f : α → State → State} (h : ∀ x s, ∃ v, f x s = { s with axes := v })
    (l : List α) : ∀ s, ∃ v, forEach l f s = { s with axes := v } := by
  induction l with
  | nil => exact fun s => ⟨s.axes, rfl⟩
  | cons x l ih =>
    intro s
    obtain ⟨v, hv⟩ := h x s
    obtain ⟨w, hw⟩ := ih (f x s)
    exact ⟨w, by rw [forEach_cons, hw, hv]⟩

section
variable (s : State) (a b : Axis)

theorem mg_setWatcher (w : Axis) (x : Option Watcher) : (s.setWatcher w b x).mg a =
    if a = w then { s.mg a with watchers := setAt (s.mg a).watchers b x } else s.mg a := by
  unfold State.setWatcher
  rw [mg_modMg]
  by_cases h : a = w
  · subst h; rw [if_pos rfl]
  · rw [if_neg h, if_neg h]

/-- An axis without watchers: its watcher leaves every MG, and nothing else of it changes. -/
theorem mg_removeWatchers :
    (s.removeWatchers b).mg a = { s.mg a with watchers := setAt (s.mg a).watchers b none } := by
  simp only [State.removeWatchers, allAxes, forEach_cons, forEach_nil, mg_setWatcher]
  fin_cases a <;> simp

theorem removeWatchers_eq : ∃ v, s.removeWatchers b = { s with axes := v } :=
  forEach_axes (fun _ _ => ⟨_, rfl⟩) _ s

theorem dropAll_eq : ∃ v, forEach allAxes State.dropWindow s = { s with axes := v } :=
  forEach_axes (fun b u => by
    obtain ⟨v, h⟩ := removeWatchers_eq (u.modSeq b fun q => { q with window := [] }) b
    exact ⟨v, by rw [State.dropWindow, h]; rfl⟩) _ s

theorem mg_dropWindow :
    (State.dropWindow b s).mg a = { s.mg a with watchers := setAt (s.mg a).watchers b none } := by
  rw [State.dropWindow, mg_removeWatchers, mg_modSeq]

theorem pos_dropAll : ((forEach allAxes State.dropWindow s).mg a).pos = (s.mg a).pos := by
  simp only [allAxes, forEach_cons, forEach_nil, mg_dropWindow]

end

/-! ### The ends of the drain and of a fault -/

section
variable (s : State)

theorem mem_allAxes (a : Axis) : a ∈ allAxes := by revert a; decide
theorem mem_allRings (r : RingNo) : r ∈ allRings := by revert r; decide

theorem allStill_iff : s.allStill = true ↔ ∀ a, (s.mg a).motion = .still := by
  simp only [State.allStill, List.all_eq_true, isStill_iff]
  exact ⟨fun h a => h a (mem_allAxes a), fun h a _ => h a⟩

theorem held_zero_iff (q : Queue) : q.held = 0 ↔ q = .reset := by
  obtain ⟨r, f, w⟩ := q
  cases w <;> cases r <;> cases f <;> simp [Queue.held, Queue.reset]

theorem noTransfers_iff : s.noTransfers = true ↔
    ∀ r, (s.ring r).fetch = .idle ∧ (s.ring r).report = .idle := by
  simp only [State.noTransfers, List.all_eq_true, Bool.and_eq_true, beq_iff_eq]
  exact ⟨fun h r => h r (mem_allRings r), fun h r _ => h r⟩

theorem quiet_iff : s.quiet = true ↔ (∀ a, (s.mg a).motion = .still) ∧ s.queue = .reset ∧ s.owed = [] ∧
    ∀ r, (s.ring r).fetch = .idle ∧ (s.ring r).report = .idle := by
  simp only [State.quiet, Bool.and_eq_true, allStill_iff, beq_iff_eq, held_zero_iff, List.isEmpty_iff,
    noTransfers_iff, and_assoc]

theorem drainEnd_eq : s.drainEnd = if s.dev = .drain ∧ s.quiet = true then
    { s with dev := .off, moderator := { s.moderator with causeDevice := true } } else s := by
  unfold State.drainEnd
  refine if_congr ?_ rfl rfl
  simp

theorem faultExit_eq : s.faultExit = if s.dev = .fault ∧ s.enable = false ∧ s.allStill = true then
    s.discardFrozen else s := by
  unfold State.faultExit
  refine if_congr ?_ rfl rfl
  simp [and_assoc]

theorem bank_clearUses (b : BankNo) : s.clearUses.bank b = { s.bank b with uses := 0 } := by
  simp [State.bank, State.clearUses, Vector.get_eq_getElem]

/-- What the end of a fault leaves outside the axes (R176). -/
theorem discardFrozen_fields : s.discardFrozen.dev = .off ∧ s.discardFrozen.queue = .reset ∧
    s.discardFrozen.owed = [] ∧ (∀ b, s.discardFrozen.bank b = { s.bank b with uses := 0 }) ∧
    (∀ u, s.discardFrozen.cap u = .disarmed) ∧ s.discardFrozen.faultCode = s.faultCode ∧
    s.discardFrozen.faultSource = s.faultSource ∧ s.discardFrozen.moderator = s.moderator := by
  obtain ⟨v, h⟩ := dropAll_eq s
  unfold State.discardFrozen
  rw [h]
  refine ⟨rfl, rfl, rfl, fun b => bank_clearUses s b, fun u => ?_, rfl, rfl, rfl⟩
  simp [State.cap, Vector.get_eq_getElem]

theorem seq_discardFrozen (a : Axis) : s.discardFrozen.seq a = { s.seq a with window := [] } := by
  rw [← seq_dropAll]; simp only [State.seq, State.axis, axes_discardFrozen]

theorem pos_discardFrozen (a : Axis) : (s.discardFrozen.mg a).pos = (s.mg a).pos := by
  rw [← pos_dropAll s a]; simp only [State.mg, State.axis, axes_discardFrozen]

end

/-- Settles O32. -/
theorem drainAndFaultEndAtRest : Obligations.DrainAndFaultEndAtRest := by
  intro s still quiet
  have hq : s.quiet = true ↔ quiet := quiet_iff s
  have hs : s.allStill = true ↔ still := allStill_iff s
  refine ⟨fun h k => ?_, fun h => ?_, fun h k j => ?_, fun h => ?_⟩
  · rw [drainEnd_eq, if_pos ⟨h, hq.2 k⟩]
  · rw [drainEnd_eq, if_neg fun k => h ⟨k.1, hq.1 k.2⟩]
  · obtain ⟨h1, h2, h3, h4, h5, h6, h7, h8⟩ := discardFrozen_fields s
    rw [faultExit_eq, if_pos ⟨h, k, hs.2 j⟩]
    exact ⟨h1, h2, h3, h4, h5, h6, h7, h8, seq_discardFrozen s, pos_discardFrozen s⟩
  · rw [faultExit_eq, if_neg fun ⟨k1, k2, k3⟩ => h ⟨k1, k2, hs.1 k3⟩]

end Sys2Proof.Proofs

/-! The setup block (section 10.1 and section 11.4): its items and its checks. -/

namespace Sys2Proof.Proofs

open Sys2Proof.Machine Sys2Proof.Safety Sys2Proof.Laws

/-! ### The rings in order -/

theorem areaOk_iff (base : BitVec 64) (len : Nat) :
    areaOk base len = true ↔ base.toNat % 32 = 0 ∧ base.toNat + len ≤ 2 ^ 64 := by
  simp [areaOk]

section
variable {d : RingDesc}

theorem sized_iff : ringSizes.contains d.size = true ↔ d.size ∈ [16, 32, 64, 128, 256, 512, 1024] := by
  simp [ringSizes]

theorem check_size (h : d.size ∉ [16, 32, 64, 128, 256, 512, 1024]) : d.check = some .setupSize := by
  simp only [RingDesc.check, Bool.eq_false_iff.2 (mt sized_iff.1 h), Bool.not_false, if_true]

theorem check_index (h : d.size ∈ [16, 32, 64, 128, 256, 512, 1024]) (k : ¬ d.start < d.size) :
    d.check = some .setupIndex := by
  simp only [RingDesc.check, sized_iff.2 h, Bool.not_true, Bool.false_eq_true, if_false, not_lt.1 k, if_true]

theorem check_area (h : d.size ∈ [16, 32, 64, 128, 256, 512, 1024]) (k : d.start < d.size) :
    d.check = if areaOk d.base (32 * d.size) then none else some .setupAlign := by
  simp only [RingDesc.check, sized_iff.2 h, Bool.not_true, Bool.false_eq_true, if_false, not_le.2 k]
  cases areaOk d.base (32 * d.size) <;> rfl

/-- The requirements of check 2 of R164 on one ring. -/
def RingSound (d : RingDesc) : Prop :=
  d.size ∈ [16, 32, 64, 128, 256, 512, 1024] ∧ d.start < d.size ∧
    d.base.toNat % 32 = 0 ∧ d.base.toNat + 32 * d.size ≤ 2 ^ 64

theorem check_none_iff : d.check = none ↔ RingSound d := by
  unfold RingSound
  by_cases h : d.size ∈ [16, 32, 64, 128, 256, 512, 1024]
  · by_cases k : d.start < d.size
    · rw [check_area h k, ← areaOk_iff]
      cases areaOk d.base (32 * d.size) <;> simp [h, k]
    · rw [check_index h k]; simp [k]
  · rw [check_size h]; simp [h]

end

theorem checkRings_none_iff (l : List RingDesc) : ∀ k, checkRings k l = none ↔ ∀ d ∈ l, d.check = none := by
  induction l with
  | nil => simp [checkRings]
  | cons d l ih =>
    intro k
    rw [checkRings]
    cases h : d.check with
    | some c => simp [h]
    | none => simp [h, ih]

theorem checkRings_first {l : List RingDesc} {c : FaultCode} : ∀ {k i : Nat} (hi : i < l.length),
    (∀ j (hj : j < i), (l[j]'(hj.trans hi)).check = none) → l[i].check = some c →
    checkRings k l = some (c, areaSource (k + i)) := by
  induction l with
  | nil => exact fun hi => absurd hi (by simp)
  | cons d l ih =>
    intro k i hi before h
    cases i with
    | zero =>
      have h : d.check = some c := h
      simp only [checkRings, h, Nat.add_zero]
    | succ i =>
      have h0 : d.check = none := before 0 (Nat.succ_pos i)
      simp only [checkRings, h0]
      rw [ih (k := k + 1) (i := i) (by simpa using hi) (fun j hj => before (j + 1) (by omega)) h]
      simp only [show k + 1 + i = k + (i + 1) by omega]

section
variable (x : Setup)

theorem toList_get (i : Fin 6) : x.rings.toList[i.val]'(by simp) = x.rings.get i := by
  simp [Vector.get_eq_getElem]

theorem mem_rings (d : RingDesc) : d ∈ x.rings.toList ↔ ∃ i : Fin 6, x.rings.get i = d := by
  rw [Vector.mem_toList_iff, Vector.mem_iff_getElem]
  exact ⟨fun ⟨i, h, e⟩ => ⟨⟨i, h⟩, e⟩, fun ⟨i, e⟩ => ⟨i.val, i.isLt, e⟩⟩

theorem rings_sound_iff : checkRings 0 x.rings.toList = none ↔ ∀ i, RingSound (x.rings.get i) := by
  rw [checkRings_none_iff]
  refine ⟨fun h i => check_none_iff.1 (h _ ((mem_rings x _).2 ⟨i, rfl⟩)), fun h d hd => ?_⟩
  obtain ⟨i, rfl⟩ := (mem_rings x d).1 hd
  exact check_none_iff.2 (h i)

theorem rings_first {c : FaultCode} {i : Fin 6} (before : ∀ j, j < i → RingSound (x.rings.get j))
    (h : (x.rings.get i).check = some c) : checkRings 0 x.rings.toList = some (c, areaSource i.val) := by
  have hi : i.val < x.rings.toList.length := by simp
  have k := checkRings_first (k := 0) hi (c := c) (fun j hj => ?_) (by rw [toList_get]; exact h)
  · rw [k, Nat.zero_add]
  · have := before ⟨j, hj.trans i.isLt⟩ hj
    rw [← check_none_iff, ← toList_get] at this
    exact this

end

/-! ### The overlaps -/

section
variable {l : List (Nat × Nat)} {j : Nat}

theorem findSome_range {f : Nat → Option Nat} {b : Nat} : ∀ {n}, (List.range n).findSome? f = some b →
    ∃ i < n, f i = some b ∧ ∀ k < i, f k = none := by
  intro n
  induction n with
  | zero => simp
  | succ n ih =>
    intro h
    rw [List.range_succ, List.findSome?_append] at h
    cases hn : (List.range n).findSome? f with
    | some c =>
      rw [hn] at h
      obtain rfl : c = b := by simpa using h
      obtain ⟨i, hi, k⟩ := ih hn
      exact ⟨i, by omega, k⟩
    | none =>
      rw [hn] at h
      refine ⟨n, by omega, by simpa using h, fun k hk => ?_⟩
      exact List.findSome?_eq_none_iff.1 hn k (List.mem_range.2 hk)

theorem later_some (h : overlapByLater l = some j) : j < 7 ∧ (∃ i < 7, overlapAt l i j = true) ∧
    ∀ k < 7, ∀ m < 7, overlapAt l k m = true → j ≤ m := by
  obtain ⟨h1, h2, h3⟩ := List.find?_range_eq_some.1 h
  refine ⟨List.mem_range.1 h2, by simpa using h1, fun k hk m hm hkm => ?_⟩
  by_contra hlt
  have := h3 m (not_le.1 hlt)
  simp only [Bool.not_eq_true', List.any_eq_false, List.mem_range] at this
  exact this k hk hkm

theorem later_none (h : overlapByLater l = none) : ∀ k < 7, ∀ m < 7, overlapAt l k m = false := by
  intro k hk m hm
  have := List.find?_range_eq_none.1 h m hm
  simp only [Bool.not_eq_true', List.any_eq_false, List.mem_range] at this
  exact Bool.eq_false_iff.2 (this k hk)

theorem earlier_some (h : overlapByEarlier l = some j) : j < 7 ∧ ∃ i < 7, overlapAt l i j = true ∧
    (∀ k < 7, ∀ m < 7, overlapAt l k m = true → i ≤ k) ∧ ∀ m < 7, overlapAt l i m = true → j ≤ m := by
  obtain ⟨i, hi, hij, before⟩ := findSome_range h
  obtain ⟨h1, h2, h3⟩ := List.find?_range_eq_some.1 hij
  refine ⟨List.mem_range.1 h2, i, hi, h1, fun k hk m hm hkm => ?_, fun m hm him => ?_⟩
  · by_contra hlt
    have := List.find?_range_eq_none.1 (before k (not_le.1 hlt)) m hm
    rw [hkm] at this
    simp at this
  · by_contra hlt
    have := h3 m (not_le.1 hlt)
    rw [him] at this
    simp at this

theorem earlier_none (h : overlapByEarlier l = none) : ∀ k < 7, ∀ m < 7, overlapAt l k m = false := by
  intro k hk m hm
  have := List.find?_range_eq_none.1 (List.findSome?_eq_none_iff.1 h k (List.mem_range.2 hk)) m hm
  simpa using this

theorem overlapFound_cases (l : List (Nat × Nat)) :
    overlapFound l = overlapByLater l ∨ overlapFound l = overlapByEarlier l := by
  unfold overlapFound
  split
  · exact .inl rfl
  · split
    · exact .inl rfl
    · exact .inr rfl

theorem overlapFound_some (h : overlapFound l = some j) : j < 7 ∧ ∃ i < 7, overlapAt l i j = true ∧
    ((∀ k < 7, ∀ m < 7, overlapAt l k m = true → j ≤ m) ∨
      ((∀ k < 7, ∀ m < 7, overlapAt l k m = true → i ≤ k) ∧ ∀ m < 7, overlapAt l i m = true → j ≤ m)) := by
  rcases overlapFound_cases l with e | e <;> rw [e] at h
  · obtain ⟨hj, ⟨i, hi, k⟩, first⟩ := later_some h
    exact ⟨hj, i, hi, k, .inl first⟩
  · obtain ⟨hj, i, hi, k, first⟩ := earlier_some h
    exact ⟨hj, i, hi, k, .inr first⟩

theorem overlapFound_none (h : overlapFound l = none) : ∀ k < 7, ∀ m < 7, overlapAt l k m = false := by
  rcases overlapFound_cases l with e | e <;> rw [e] at h
  · exact later_none h
  · exact earlier_none h

end

/-- The start and the length of an area, in the order of R164. -/
def areaAt (x : Setup) (i : Fin 7) : Nat × Nat :=
  if h : i.val < 6 then ((x.rings.get ⟨i.val, h⟩).base.toNat, 32 * (x.rings.get ⟨i.val, h⟩).size)
  else (x.report.toNat, 32)

/-- Two areas overlap, the first before the second. -/
def AreasMeet (x : Setup) (i j : Fin 7) : Prop :=
  i < j ∧ (areaAt x i).1 < (areaAt x j).1 + (areaAt x j).2 ∧ (areaAt x j).1 < (areaAt x i).1 + (areaAt x i).2

section
variable (x : Setup)

theorem areas_getD (i : Fin 7) : x.areas.getD i.val (0, 0) = areaAt x i := by
  have hl : x.areas.length = 7 := by simp [Setup.areas]
  rw [List.getD_eq_getElem _ _ (by omega)]
  simp only [Setup.areas, areaAt, List.getElem_append, List.length_map, Vector.length_toList, List.getElem_map,
    List.getElem_singleton, Vector.getElem_toList]
  rfl

theorem overlapAt_iff (i j : Fin 7) : overlapAt x.areas i.val j.val = true ↔ AreasMeet x i j := by
  simp only [overlapAt, overlap, Bool.and_eq_true, decide_eq_true_eq, areas_getD, AreasMeet, Fin.lt_def]

theorem areas_apart_iff : (∀ i j, ¬ AreasMeet x i j) ↔ overlapFound x.areas = none := by
  refine ⟨fun h => ?_, fun h i j hij => ?_⟩
  · cases hf : overlapFound x.areas with
    | none => rfl
    | some j =>
      obtain ⟨hj, i, hi, k, _⟩ := overlapFound_some hf
      exact absurd ((overlapAt_iff x ⟨i, hi⟩ ⟨j, hj⟩).1 k) (h _ _)
  · have := overlapFound_none h i.val i.isLt j.val j.isLt
    rw [(overlapAt_iff x i j).2 hij] at this
    cases this

/-- The areas of rings and of the report apart from each other. -/
theorem areas_apart : (∀ i j, ¬ AreasMeet x i j) ↔
    (∀ i j : Fin 6, i < j →
      (x.rings.get i).base.toNat + 32 * (x.rings.get i).size ≤ (x.rings.get j).base.toNat ∨
      (x.rings.get j).base.toNat + 32 * (x.rings.get j).size ≤ (x.rings.get i).base.toNat) ∧
    ∀ i : Fin 6, (x.rings.get i).base.toNat + 32 * (x.rings.get i).size ≤ x.report.toNat ∨
      x.report.toNat + 32 ≤ (x.rings.get i).base.toNat := by
  have ring (i : Fin 6) : areaAt x i.castSucc = ((x.rings.get i).base.toNat, 32 * (x.rings.get i).size) :=
    dif_pos i.isLt
  have report : areaAt x (Fin.last 6) = (x.report.toNat, 32) := dif_neg (lt_irrefl 6)
  refine ⟨fun h => ⟨fun i j hij => ?_, fun i => ?_⟩, fun ⟨h, k⟩ i j => ?_⟩
  · have := h i.castSucc j.castSucc
    simp only [AreasMeet, ring, Fin.castSucc_lt_castSucc_iff, hij, true_and] at this
    omega
  · have := h i.castSucc (Fin.last 6)
    simp only [AreasMeet, ring, report, Fin.castSucc_lt_last, true_and] at this
    omega
  · rintro ⟨hij, h1, h2⟩
    obtain ⟨i, rfl⟩ := Fin.exists_castSucc_eq.2 (ne_of_lt (hij.trans_le (Fin.le_last j)))
    rcases Fin.eq_castSucc_or_eq_last j with ⟨j, rfl⟩ | rfl
    · have := h i j (Fin.castSucc_lt_castSucc_iff.1 hij)
      simp only [ring] at h1 h2
      omega
    · have := k i
      simp only [ring, report] at h1 h2
      omega

end

/-! ### The checks in order -/

section
variable (x : Setup)

theorem check_version (h : x.version ≠ Config.ident) : x.check = some (.setupVersion, .setup) := if_pos h

theorem check_ring {f : FaultCode × FaultSource} (h : x.version = Config.ident)
    (k : checkRings 0 x.rings.toList = some f) : x.check = some f := by
  rw [Setup.check, if_neg (not_not.2 h), k]

/-- The checks after those of the rings. -/
theorem check_rest (h : x.version = Config.ident) (k : ∀ i, RingSound (x.rings.get i)) : x.check =
    if !areaOk x.report 32 then some (.setupAlign, .report)
    else match overlapFound x.areas with
      | some j => some (.setupOverlap, areaSource j)
      | none => if 1 ≤ x.threshold && x.threshold ≤ 255 then none else some (.setupIrq, .setup) := by
  rw [Setup.check, if_neg (not_not.2 h), (rings_sound_iff x).2 k] <;> rfl

theorem check_overlap (h : x.version = Config.ident) (k : ∀ i, RingSound (x.rings.get i))
    (hr : areaOk x.report 32 = true) {j : Nat} (hj : overlapFound x.areas = some j) :
    x.check = some (.setupOverlap, areaSource j) := by
  rw [check_rest x h k, hr, hj]; rfl

theorem check_last (h : x.version = Config.ident) (k : ∀ i, RingSound (x.rings.get i))
    (hr : areaOk x.report 32 = true) (hj : overlapFound x.areas = none) : x.check =
    if 1 ≤ x.threshold ∧ x.threshold ≤ 255 then none else some (.setupIrq, .setup) := by
  rw [check_rest x h k, hr, hj]
  have e : (decide (1 ≤ x.threshold) && decide (x.threshold ≤ 255)) = true ↔
      1 ≤ x.threshold ∧ x.threshold ≤ 255 := by simp
  change (if (decide (1 ≤ x.threshold) && decide (x.threshold ≤ 255)) = true then _ else _) = _
  exact if_congr e rfl rfl

theorem setup_check_none_iff : x.check = none ↔ x.version = Config.ident ∧
    (∀ i, RingSound (x.rings.get i)) ∧ areaOk x.report 32 = true ∧ (∀ i j, ¬ AreasMeet x i j) ∧
    1 ≤ x.threshold ∧ x.threshold ≤ 255 := by
  by_cases h : x.version = Config.ident
  · by_cases k : ∀ i, RingSound (x.rings.get i)
    · by_cases hr : areaOk x.report 32 = true
      · rw [areas_apart_iff]
        cases hj : overlapFound x.areas with
        | some j => simp [check_overlap x h k hr hj]
        | none => rw [check_last x h k hr hj]; simp [h, k, hr]
      · rw [check_rest x h k]; simp [hr]
    · obtain ⟨f, hf⟩ := Option.ne_none_iff_exists'.1 (mt (rings_sound_iff x).1 k)
      simp [check_ring x h hf, k]
  · simp [check_version x h, h]

/-- The item words of a block stand at their offsets. -/
theorem readSetup_ring (b : SetupBlock) (i : Fin 6) : (readSetup b).rings.get i = descAt b (16 + 16 * i.val) := by
  fin_cases i <;> rfl

end

/-- Settles O28: the items, the first check that fails, and the pass, over the lemmas of each check. -/
theorem setupPassesExactlyWhenSound : Obligations.SetupPassesExactlyWhenSound := by
  refine ⟨fun b => ?_, fun x => ?_, fun x => ?_⟩
  · refine ⟨rfl, rfl, rfl, rfl, fun i => ?_⟩
    dsimp only
    rw [readSetup_ring]
    refine ⟨rfl, ?_, ?_⟩
    · simp only [descAt, Nat.mul_add]
    · simp only [descAt, Nat.mul_add]
  · intro sized indexed placed sound source base len meets
    have hsound (i : Fin 6) : sound i ↔ RingSound (x.rings.get i) := Iff.rfl
    have hmeets (i j : Fin 7) : meets i j ↔ AreasMeet x i j := by
      have hb (k : Fin 7) : (areaAt x k).1 = base k := by simp only [areaAt, base]; split <;> rfl
      have hl (k : Fin 7) : (areaAt x k).2 = len k := by simp only [areaAt, len]; split <;> rfl
      simp only [meets, AreasMeet, hb, hl]
    refine ⟨check_version x, fun hv => ⟨fun i before => ⟨fun h => ?_, fun h k => ?_, fun h k j => ?_⟩,
      fun hs => ⟨fun h => ?_, fun h => ⟨fun ⟨i, j, hij⟩ => ?_, fun hn ht => ?_⟩⟩⟩⟩
    · exact check_ring x hv (rings_first x before (check_size h))
    · exact check_ring x hv (rings_first x before (check_index h k))
    · refine check_ring x hv (rings_first x before ?_)
      rw [check_area h k, if_neg]
      exact fun ha => j ⟨h, k, (areaOk_iff _ _).1 ha⟩
    · rw [check_rest x hv hs, Bool.eq_false_iff.2 (mt (areaOk_iff _ _).1 h)]; rfl
    · have hr : areaOk x.report 32 = true := (areaOk_iff _ _).2 h
      cases hf : overlapFound x.areas with
      | none => exact absurd ((hmeets i j).1 hij) ((areas_apart_iff x).2 hf i j)
      | some n =>
        obtain ⟨hn, m, hm, k, first⟩ := overlapFound_some hf
        have laps (p q : Fin 7) (hpq : meets p q) : overlapAt x.areas p.val q.val = true :=
          (overlapAt_iff x p q).2 ((hmeets p q).1 hpq)
        refine ⟨⟨m, hm⟩, ⟨n, hn⟩, (hmeets _ _).2 ((overlapAt_iff x ⟨m, hm⟩ ⟨n, hn⟩).1 k),
          check_overlap x hv hs hr hf, first.imp (fun first p q hpq => ?_) fun ⟨f1, f2⟩ =>
            ⟨fun p q hpq => ?_, fun q hq => ?_⟩⟩
        · exact first p.val p.isLt q.val q.isLt (laps p q hpq)
        · exact f1 p.val p.isLt q.val q.isLt (laps p q hpq)
        · exact f2 q.val q.isLt (laps _ q hq)
    · have hf : overlapFound x.areas = none := (areas_apart_iff x).1 fun i j k => hn i j ((hmeets i j).2 k)
      rw [check_last x hv hs ((areaOk_iff _ _).2 h) hf, if_neg ht]
  · rw [setup_check_none_iff, areas_apart, areaOk_iff]
    simp only [RingSound, and_assoc]
    rfl

end Sys2Proof.Proofs

/-! Records (chapter 11): the fields of a completion record, and segment records read and written. -/

namespace Sys2Proof.Proofs

open Sys2Proof.Machine Sys2Proof.Safety Sys2Proof.Laws

/-! ### Fields side by side -/

section
variable {n : Nat} (v : BitVec n)

/-- A field read where it was placed. -/
theorem extract_placed (k : Nat) (h : k + n ≤ 256) : (v.setWidth 256 <<< k).extractLsb' k n = v := by
  refine BitVec.eq_of_getLsbD_eq fun i hi => ?_
  simp [hi, show k + i < 256 by omega]

/-- A field does not reach beyond its place. -/
theorem extract_apart (k a w : Nat) (h : a + w ≤ k ∨ k + n ≤ a) :
    (v.setWidth 256 <<< k).extractLsb' a w = 0 := by
  refine BitVec.eq_of_getLsbD_eq fun i hi => ?_
  simp only [BitVec.getLsbD_extractLsb', hi, decide_true, Bool.true_and, BitVec.getLsbD_shiftLeft,
    BitVec.getLsbD_setWidth, BitVec.ofNat_eq_ofNat, BitVec.getLsbD_zero]
  rcases h with h | h
  · simp [show a + i < k by omega]
  · simp [BitVec.getLsbD_of_ge v (a + i - k) (by omega)]

theorem extract_first (h : n ≤ 256) : (v.setWidth 256).extractLsb' 0 n = v := by
  have := extract_placed v 0 (by omega)
  rwa [BitVec.shiftLeft_zero] at this

theorem extract_beyond (a w : Nat) (h : n ≤ a) : (v.setWidth 256).extractLsb' a w = 0 := by
  have := extract_apart v 0 a w (by omega)
  rwa [BitVec.shiftLeft_zero] at this

end

/-- Settles O33: each field of the record where it stands, and the code tables as they are written. -/
theorem completionRecordLayout : Obligations.CompletionRecordLayout := by
  refine ⟨⟨rfl, rfl, rfl, rfl, rfl, fun _ => rfl, rfl, rfl, rfl, rfl, fun _ _ => rfl⟩, fun c phase => ?_⟩
  have flag (b : Bool) : flagByte b = if b then 1 else 0 := rfl
  simp only [byteAt, halfAt, wordAt, zeroBytes, Nat.reduceMul, Nat.reduceSub, Completion.bytes,
    BitVec.extractLsb'_or, beq_iff_eq, ← flag]
  simp (disch := omega) only [extract_placed, extract_apart, extract_first, extract_beyond]
  simp

/-! ### The bytes of a record -/

theorem getLsbD_ofBytes (l : List Byte) : ∀ i < 256, (ofBytes l).getLsbD i = (l.getD (i / 8) 0).getLsbD (i % 8) := by
  induction l with
  | nil => intro i _; simp [ofBytes]
  | cons b l ih =>
    intro i hi
    have e : ofBytes (b :: l) = ofBytes l <<< 8 ||| b.setWidth 256 := rfl
    rw [e]
    simp only [BitVec.getLsbD_or, BitVec.getLsbD_shiftLeft, BitVec.getLsbD_setWidth, hi, decide_true, Bool.true_and]
    by_cases h : i < 8
    · simp [h, Nat.div_eq_of_lt h, Nat.mod_eq_of_lt h]
    · obtain ⟨j, rfl⟩ : ∃ j, i = j + 8 := ⟨i - 8, by omega⟩
      rw [show j + 8 - 8 = j by omega, ih j (by omega), show (j + 8) / 8 = j / 8 + 1 by omega,
        show (j + 8) % 8 = j % 8 by omega]
      simp

theorem byteAt_ofBytes (l : List Byte) (o : Nat) (h : o < 32) : byteAt (ofBytes l) o = l.getD o 0 := by
  refine BitVec.eq_of_getLsbD_eq fun i hi => ?_
  simp only [byteAt, BitVec.getLsbD_extractLsb', hi, decide_true, Bool.true_and]
  rw [getLsbD_ofBytes l _ (by omega), show (8 * o + i) / 8 = o by omega, show (8 * o + i) % 8 = i by omega]

theorem halfAt_eq (r : Record) (o : Nat) : halfAt r o = byteAt r (o + 1) ++ byteAt r o := by
  refine BitVec.eq_of_getLsbD_eq fun i hi => ?_
  have split : (byteAt r (o + 1) ++ byteAt r o).getLsbD i =
      if i < 8 then (byteAt r o).getLsbD i else (byteAt r (o + 1)).getLsbD (i - 8) := BitVec.getLsbD_append
  rw [split]
  simp only [halfAt, byteAt, BitVec.getLsbD_extractLsb', hi, decide_true, Bool.true_and]
  by_cases h : i < 8
  · simp [h]
  · simp [h, show i - 8 < 8 by omega, show 8 * (o + 1) + (i - 8) = 8 * o + i by omega]

theorem wordAt_eq (r : Record) (o : Nat) : wordAt r o = halfAt r (o + 2) ++ halfAt r o := by
  refine BitVec.eq_of_getLsbD_eq fun i hi => ?_
  have split : (halfAt r (o + 2) ++ halfAt r o).getLsbD i =
      if i < 16 then (halfAt r o).getLsbD i else (halfAt r (o + 2)).getLsbD (i - 16) := BitVec.getLsbD_append
  rw [split]
  simp only [wordAt, halfAt, BitVec.getLsbD_extractLsb', hi, decide_true, Bool.true_and]
  by_cases h : i < 16
  · simp [h]
  · simp [h, show i - 16 < 16 by omega, show 8 * (o + 2) + (i - 16) = 8 * o + i by omega]

theorem bytes16_append (v : BitVec 16) : v.extractLsb' 8 8 ++ v.extractLsb' 0 8 = v := by
  refine BitVec.eq_of_getLsbD_eq fun i hi => ?_
  have split : (v.extractLsb' 8 8 ++ v.extractLsb' 0 8).getLsbD i =
      if i < 8 then (v.extractLsb' 0 8).getLsbD i else (v.extractLsb' 8 8).getLsbD (i - 8) := BitVec.getLsbD_append
  rw [split]
  simp only [BitVec.getLsbD_extractLsb']
  by_cases h : i < 8
  · simp [h]
  · simp [h, show i - 8 < 8 by omega, show 8 + (i - 8) = i by omega]

theorem bytes32_append (v : Word) : (v.extractLsb' 24 8 ++ v.extractLsb' 16 8) ++
    (v.extractLsb' 8 8 ++ v.extractLsb' 0 8) = v := by
  refine BitVec.eq_of_getLsbD_eq fun i hi => ?_
  have split16 (x y : BitVec 16) : (x ++ y).getLsbD i = if i < 16 then y.getLsbD i else x.getLsbD (i - 16) :=
    BitVec.getLsbD_append
  have split8 (x y : BitVec 8) (k : Nat) : (x ++ y).getLsbD k = if k < 8 then y.getLsbD k else x.getLsbD (k - 8) :=
    BitVec.getLsbD_append
  rw [split16, split8, split8]
  simp only [BitVec.getLsbD_extractLsb']
  by_cases h : i < 16
  · by_cases k : i < 8
    · simp [h, k]
    · simp [h, k, show i - 8 < 8 by omega, show 8 + (i - 8) = i by omega]
  · by_cases k : i - 16 < 8
    · simp [h, k, show 16 + (i - 16) = i by omega]
    · simp [h, k, show i - 16 - 8 < 8 by omega, show 24 + (i - 16 - 8) = i by omega]

/-! ### Segment records read -/

theorem codeBelow_eq_some {n : Nat} {b : Byte} {k : Fin n} : codeBelow n b = some k ↔ b.toNat = k.val := by
  unfold codeBelow
  split
  next h => simp [Fin.ext_iff]
  next h => simp only [reduceCtorEq, false_iff]; omega

theorem codeBelow_ne_none {n : Nat} {b : Byte} : codeBelow n b ≠ none ↔ b.toNat < n := by
  unfold codeBelow
  split <;> simp [*]

theorem byte_eq_zero_iff (b : Byte) : b = 0 ↔ b.toNat = 0 := by
  rw [← BitVec.toNat_inj]; rfl

theorem decodeOut_ne_none {m v : Byte} : decodeOut m v ≠ none ↔ m.toNat ≤ 15 ∧ v.toNat ≤ 15 := by
  unfold decodeOut
  split
  next h => simp only [Bool.and_eq_true, decide_eq_true_eq] at h; simp; omega
  next h => simp only [Bool.and_eq_true, decide_eq_true_eq] at h; simp; omega

theorem decodePost_ne_none {b : Byte} : decodePost b ≠ none ↔ b.toNat ≤ 16 := by
  unfold decodePost
  by_cases h : b = 0
  · simp [h]
  · have hb : (b - 1).toNat < 16 ↔ b.toNat ≤ 16 := by
      have : b.toNat ≠ 0 := mt (byte_eq_zero_iff b).2 h
      have : (b - 1).toNat = b.toNat - 1 := by
        have := b.isLt
        rw [BitVec.toNat_sub]
        simp
        omega
      omega
    have hc := codeBelow_ne_none (n := 16) (b := b - 1)
    simp only [h, beq_iff_eq, if_false, ne_eq, Option.map_eq_none_iff]
    exact hc.trans hb

/-- The requirements of R2 by kind. -/
theorem decodeWork_ne_none (kind : Nat) (target : Int) (velocity : Nat) (flags : Byte) :
    decodeWork kind target velocity flags ≠ none ↔
      ((kind = 1 ∨ kind = 2) ∧ 1 ≤ velocity ∧ velocity ≤ 1000000 ∧ flags &&& ~~~1 = 0) ∨
      (kind = 3 ∧ velocity = 0 ∧ target.natAbs ≤ 1000000 ∧ flags &&& ~~~3 = 0) ∨
      ((kind = 4 ∨ kind = 7) ∧ velocity = 0 ∧ target = 0 ∧ flags &&& ~~~1 = 0) ∨
      (kind = 5 ∧ velocity = 0 ∧ 1 ≤ target ∧ flags &&& ~~~1 = 0) ∨
      (kind = 6 ∧ 1 ≤ velocity ∧ velocity ≤ 1000000 ∧ flags &&& ~~~13 = 0) := by
  have tested {c : Bool} {w : Work} : (if c then some w else none) ≠ none ↔ c = true := by cases c <;> simp
  unfold decodeWork
  dsimp only
  split
  case h_8 =>
    refine ⟨fun k => absurd rfl k, ?_⟩
    rintro (⟨rfl | rfl, _⟩ | ⟨rfl, _⟩ | ⟨rfl | rfl, _⟩ | ⟨rfl, _⟩ | ⟨rfl, _⟩) <;> contradiction
  all_goals
    simp only [Bool.and_eq_true, decide_eq_true_eq, beq_iff_eq, and_assoc]
    simp

/-- The requirements of R2 by start condition. -/
theorem decodeStart_ne_none (start : Nat) (arg0 arg1 : Byte) (threshold : Int) :
    decodeStart start arg0 arg1 threshold ≠ none ↔
      (start = 0 ∧ arg0.toNat = 0 ∧ arg1.toNat = 0 ∧ threshold = 0) ∨
      (start = 1 ∧ arg0.toNat ≤ 11 ∧ 1 ≤ arg1.toNat ∧ arg1.toNat ≤ 3 ∧ threshold = 0) ∨
      (start = 2 ∧ arg0.toNat ≤ 15 ∧ arg1.toNat = 0 ∧ threshold = 0) ∨
      (start = 3 ∧ arg0.toNat ≤ 3 ∧ 1 ≤ arg1.toNat ∧ arg1.toNat ≤ 2) ∨
      (start = 4 ∧ arg0.toNat ≤ 7 ∧ arg1.toNat = 0 ∧ threshold = 0) := by
  have zero (b : Byte) : b = 0 ↔ b.toNat = 0 := byte_eq_zero_iff b
  have mapped {n : Nat} {f : Fin n → Start} : (codeBelow n arg0).map f ≠ none ↔ arg0.toNat < n := by
    rw [Ne, Option.map_eq_none_iff]; exact codeBelow_ne_none
  have tested {c : Bool} {w : Option Start} : (if c then w else none) ≠ none ↔ c = true ∧ w ≠ none := by
    cases c <;> simp
  have none_of {n : Nat} (h : codeBelow n arg0 = none) : ¬ arg0.toNat < n := fun k => codeBelow_ne_none.2 k h
  have below {n : Nat} {l : Fin n} (h : codeBelow n arg0 = some l) : arg0.toNat < n :=
    codeBelow_ne_none.1 (by simp [h])
  unfold decodeStart
  split
  · have tested' {c : Bool} {w : Start} : (if c then some w else none) ≠ none ↔ c = true := by cases c <;> simp
    rw [tested']
    simp only [Bool.and_eq_true, beq_iff_eq, zero, and_assoc]
    simp
  · rw [tested]
    simp only [beq_iff_eq]
    generalize arg1.toNat = n
    cases h : codeBelow 12 arg0 with
    | none => have := none_of h; simp; omega
    | some l =>
      have hl := below h
      match n with
      | 0 => simp
      | 1 => simp; omega
      | 2 => simp; omega
      | 3 => simp; omega
      | n + 4 => simp
  · rw [tested, mapped]
    simp only [Bool.and_eq_true, beq_iff_eq, zero, true_and]
    omega
  · generalize arg1.toNat = n
    cases h : codeBelow 4 arg0 with
    | none => have := none_of h; simp; omega
    | some l =>
      have hl := below h
      match n with
      | 0 => simp
      | 1 => simp; omega
      | 2 => simp; omega
      | n + 3 => simp
  · rw [tested, mapped]
    simp only [Bool.and_eq_true, beq_iff_eq, zero, true_and]
    omega
  · refine ⟨fun k => absurd rfl k, ?_⟩
    rintro (⟨rfl, _⟩ | ⟨rfl, _⟩ | ⟨rfl, _⟩ | ⟨rfl, _⟩ | ⟨rfl, _⟩) <;> contradiction

theorem decodeBody_ne_none (r : Record) : decodeBody r ≠ none ↔
    decodeWork (byteAt r 0).toNat (wordAt r 12).toInt (wordAt r 16).toNat (byteAt r 5) ≠ none ∧
    decodeStart (byteAt r 1).toNat (byteAt r 6) (byteAt r 7) (wordAt r 8).toInt ≠ none ∧
    codeBelow 8 (byteAt r 4) ≠ none ∧ decodePost (byteAt r 20) ≠ none ∧
    decodeOut (byteAt r 21) (byteAt r 22) ≠ none ∧ decodeOut (byteAt r 23) (byteAt r 24) ≠ none ∧
    zeroBytes r 25 32 = true := by
  unfold decodeBody
  cases decodeWork (byteAt r 0).toNat (wordAt r 12).toInt (wordAt r 16).toNat (byteAt r 5) <;> [simp; skip]
  cases decodeStart (byteAt r 1).toNat (byteAt r 6) (byteAt r 7) (wordAt r 8).toInt <;> [simp; skip]
  cases codeBelow 8 (byteAt r 4) <;> [simp; skip]
  cases decodePost (byteAt r 20) <;> [simp; skip]
  cases decodeOut (byteAt r 21) (byteAt r 22) <;> [simp; skip]
  cases decodeOut (byteAt r 23) (byteAt r 24) <;> [simp; skip]
  cases zeroBytes r 25 32 <;> simp

theorem decodeBankUse_eq_some (r : Record) (k : BankNo) : decodeBankUse r = some k ↔
    1 ≤ (byteAt r 0).toNat ∧ (byteAt r 0).toNat ≤ 6 ∧ (byteAt r 0).toNat ≠ 5 ∧ (byteAt r 4).toNat = k.val := by
  unfold decodeBankUse
  dsimp only
  split
  next h =>
    simp only [Bool.and_eq_true, decide_eq_true_eq, bne_iff_ne] at h
    rw [codeBelow_eq_some]
    tauto
  next h =>
    simp only [Bool.and_eq_true, decide_eq_true_eq, bne_iff_ne] at h
    simp only [reduceCtorEq, false_iff]
    tauto

/-! ### Segment records written -/

/-- The bytes of an encoded segment record, in order. -/
def segmentBytes (tag : BitVec 16) (notify : Bool) (b : SegBody) : List Byte :=
  [b.work.kindCode, b.start.fields.1] ++ bytes16 tag
    ++ [BitVec.ofNat 8 b.bank.val, b.work.flagBits ||| (if notify then 1 else 0), b.start.fields.2.1,
        b.start.fields.2.2.1]
    ++ bytes32 (BitVec.ofInt 32 b.start.fields.2.2.2) ++ bytes32 (BitVec.ofInt 32 b.work.targetField)
    ++ bytes32 (BitVec.ofNat 32 b.work.velocityField)
    ++ [postByte b.postSignal, b.outStart.mask.setWidth 8, b.outStart.value.setWidth 8,
        b.outEnd.mask.setWidth 8, b.outEnd.value.setWidth 8]

section
variable (tag : BitVec 16) (notify : Bool) (b : SegBody)

theorem encodeSegment_eq : encodeSegment tag notify b = ofBytes (segmentBytes tag notify b) := rfl

theorem byteAt_encode (o : Nat) (h : o < 32) :
    byteAt (encodeSegment tag notify b) o = (segmentBytes tag notify b).getD o 0 := by
  rw [encodeSegment_eq, byteAt_ofBytes _ _ h]

theorem tag_encode : halfAt (encodeSegment tag notify b) 2 = tag := by
  rw [halfAt_eq, byteAt_encode _ _ _ _ (by decide), byteAt_encode _ _ _ _ (by decide)]
  exact bytes16_append tag

theorem threshold_encode :
    wordAt (encodeSegment tag notify b) 8 = BitVec.ofInt 32 b.start.fields.2.2.2 := by
  rw [wordAt_eq, halfAt_eq, halfAt_eq]
  simp only [byteAt_encode _ _ _ _ (show 8 + 2 + 1 < 32 by decide), byteAt_encode _ _ _ _ (show 8 + 2 < 32 by decide),
    byteAt_encode _ _ _ _ (show 8 + 1 < 32 by decide), byteAt_encode _ _ _ _ (show 8 < 32 by decide)]
  exact bytes32_append _

theorem target_encode : wordAt (encodeSegment tag notify b) 12 = BitVec.ofInt 32 b.work.targetField := by
  rw [wordAt_eq, halfAt_eq, halfAt_eq]
  simp only [byteAt_encode _ _ _ _ (show 12 + 2 + 1 < 32 by decide), byteAt_encode _ _ _ _ (show 12 + 2 < 32 by decide),
    byteAt_encode _ _ _ _ (show 12 + 1 < 32 by decide), byteAt_encode _ _ _ _ (show 12 < 32 by decide)]
  exact bytes32_append _

theorem velocity_encode : wordAt (encodeSegment tag notify b) 16 = BitVec.ofNat 32 b.work.velocityField := by
  rw [wordAt_eq, halfAt_eq, halfAt_eq]
  simp only [byteAt_encode _ _ _ _ (show 16 + 2 + 1 < 32 by decide), byteAt_encode _ _ _ _ (show 16 + 2 < 32 by decide),
    byteAt_encode _ _ _ _ (show 16 + 1 < 32 by decide), byteAt_encode _ _ _ _ (show 16 < 32 by decide)]
  exact bytes32_append _

theorem zero_encode : zeroBytes (encodeSegment tag notify b) 25 32 = true := by
  rw [zeroBytes, beq_iff_eq]
  refine BitVec.eq_of_getLsbD_eq fun i hi => ?_
  rw [encodeSegment_eq]
  simp only [BitVec.getLsbD_extractLsb', hi, decide_true, Bool.true_and]
  rw [getLsbD_ofBytes _ _ (by omega), List.getD_eq_default _ _ (by
    have : (segmentBytes tag notify b).length = 25 := rfl
    omega)]
  simp

end

theorem inRange_iff (p : Int) : inRange p = true ↔ -2147483648 ≤ p ∧ p ≤ 2147483647 := by
  unfold inRange posMin posMax
  rw [Bool.and_eq_true]
  exact and_congr decide_eq_true_iff decide_eq_true_iff

theorem toInt_ofInt_word {t : Int} (h : inRange t = true) : (BitVec.ofInt 32 t).toInt = t := by
  rw [inRange_iff] at h
  exact BitVec.toInt_ofInt_eq_self (by decide) (by omega) (by omega)

theorem codeBelow_ofNat {n : Nat} (k : Fin n) (h : n ≤ 256) : codeBelow n (BitVec.ofNat 8 k.val) = some k := by
  rw [codeBelow_eq_some, BitVec.toNat_ofNat]
  have := k.isLt
  omega

theorem decodePost_postByte (p : Option SignalNo) : decodePost (postByte p) = some p := by
  revert p; decide

theorem decodeOut_encode (o : OutAction) : decodeOut (o.mask.setWidth 8) (o.value.setWidth 8) = some o := by
  obtain ⟨m, v⟩ := o
  revert m v; decide

/-- A work within its ranges is read back from its fields. -/
theorem decodeWork_encode (b : SegBody) (notify : Bool) (h : b.wf = true) :
    decodeWork b.work.kindCode.toNat (BitVec.ofInt 32 b.work.targetField).toInt
      (BitVec.ofNat 32 b.work.velocityField).toNat (b.work.flagBits ||| (if notify then 1 else 0)) =
      some b.work := by
  have speed (v : Nat) (h : v ≤ 1000000) : (BitVec.ofNat 32 v).toNat = v := by
    rw [BitVec.toNat_ofNat]; omega
  have run (r : Int) (h : r.natAbs ≤ 1000000) : (BitVec.ofInt 32 r).toInt = r :=
    toInt_ofInt_word (by rw [inRange_iff]; omega)
  have dwell (d : Nat) (h : d ≤ 2147483647) : (BitVec.ofInt 32 (d : Int)).toInt = d :=
    toInt_ofInt_word (by rw [inRange_iff]; omega)
  unfold SegBody.wf at h
  rw [Bool.and_eq_true] at h
  replace h := h.1
  cases hw : b.work with
  | moveAbs t v =>
    simp only [hw, Bool.and_eq_true, decide_eq_true_eq] at h
    obtain ⟨⟨ht, h1⟩, h2⟩ := h
    simp only [Work.kindCode, Work.targetField, Work.velocityField, Work.flagBits, toInt_ofInt_word ht, speed v h2]
    cases notify <;> simp [decodeWork, h1, h2]
  | moveRel t v =>
    simp only [hw, Bool.and_eq_true, decide_eq_true_eq] at h
    obtain ⟨⟨ht, h1⟩, h2⟩ := h
    simp only [Work.kindCode, Work.targetField, Work.velocityField, Work.flagBits, toInt_ofInt_word ht, speed v h2]
    cases notify <;> simp [decodeWork, h1, h2]
  | run r f =>
    simp only [hw, decide_eq_true_eq] at h
    simp only [Work.kindCode, Work.targetField, Work.velocityField, Work.flagBits, run r h]
    cases notify <;> cases f <;> simp [decodeWork, h]
  | stop => cases notify <;> rfl
  | dwell d =>
    simp only [hw, Bool.and_eq_true, decide_eq_true_eq] at h
    obtain ⟨h1, h2⟩ := h
    simp only [Work.kindCode, Work.targetField, Work.velocityField, Work.flagBits, dwell d h2]
    cases notify <;> simp [decodeWork, h1]
  | home t v x y =>
    simp only [hw, Bool.and_eq_true, decide_eq_true_eq] at h
    obtain ⟨⟨ht, h1⟩, h2⟩ := h
    simp only [Work.kindCode, Work.targetField, Work.velocityField, Work.flagBits, toInt_ofInt_word ht, speed v h2]
    cases notify <;> cases x <;> cases y <;> simp [decodeWork, h1, h2]
  | mark => cases notify <;> rfl

theorem decodeStart_encode (b : SegBody) (h : b.wf = true) :
    decodeStart b.start.fields.1.toNat b.start.fields.2.1 b.start.fields.2.2.1
      (BitVec.ofInt 32 b.start.fields.2.2.2).toInt = some b.start := by
  unfold SegBody.wf at h
  rw [Bool.and_eq_true] at h
  replace h := h.2
  cases hs : b.start with
  | afterPrevious => rfl
  | waitInput l e => cases e <;> simp [Start.fields, decodeStart, codeBelow_ofNat l (by decide)]
  | waitSignal n => simp [Start.fields, decodeStart, codeBelow_ofNat n (by decide)]
  | waitPosition a up t =>
    simp only [hs] at h
    cases up <;> simp [Start.fields, decodeStart, codeBelow_ofNat a (by decide), toInt_ofInt_word h]
  | waitRendezvous e => simp [Start.fields, decodeStart, codeBelow_ofNat e (by decide)]

/-- A body within its ranges is read back from its record. -/
theorem decodeBody_encode (tag : BitVec 16) (notify : Bool) (b : SegBody) (h : b.wf = true) :
    decodeBody (encodeSegment tag notify b) = some b := by
  have at0 : byteAt (encodeSegment tag notify b) 0 = b.work.kindCode := byteAt_encode tag notify b 0 (by decide)
  have at1 : byteAt (encodeSegment tag notify b) 1 = b.start.fields.1 := byteAt_encode tag notify b 1 (by decide)
  have at4 : byteAt (encodeSegment tag notify b) 4 = BitVec.ofNat 8 b.bank.val :=
    byteAt_encode tag notify b 4 (by decide)
  have at5 : byteAt (encodeSegment tag notify b) 5 = b.work.flagBits ||| (if notify then 1 else 0) :=
    byteAt_encode tag notify b 5 (by decide)
  have at6 : byteAt (encodeSegment tag notify b) 6 = b.start.fields.2.1 := byteAt_encode tag notify b 6 (by decide)
  have at7 : byteAt (encodeSegment tag notify b) 7 = b.start.fields.2.2.1 := byteAt_encode tag notify b 7 (by decide)
  have at20 : byteAt (encodeSegment tag notify b) 20 = postByte b.postSignal :=
    byteAt_encode tag notify b 20 (by decide)
  have at21 : byteAt (encodeSegment tag notify b) 21 = b.outStart.mask.setWidth 8 :=
    byteAt_encode tag notify b 21 (by decide)
  have at22 : byteAt (encodeSegment tag notify b) 22 = b.outStart.value.setWidth 8 :=
    byteAt_encode tag notify b 22 (by decide)
  have at23 : byteAt (encodeSegment tag notify b) 23 = b.outEnd.mask.setWidth 8 :=
    byteAt_encode tag notify b 23 (by decide)
  have at24 : byteAt (encodeSegment tag notify b) 24 = b.outEnd.value.setWidth 8 :=
    byteAt_encode tag notify b 24 (by decide)
  unfold decodeBody
  rw [target_encode, velocity_encode, threshold_encode, zero_encode, at0, at1, at4, at5, at6, at7, at20, at21, at22,
    at23, at24, decodeWork_encode b notify h, decodeStart_encode b h, codeBelow_ofNat b.bank (by decide),
    decodePost_postByte, decodeOut_encode, decodeOut_encode]
  rfl

theorem bankUse_encode (tag : BitVec 16) (notify : Bool) (b : SegBody) :
    decodeBankUse (encodeSegment tag notify b) = b.bankUse := by
  unfold decodeBankUse
  rw [byteAt_encode _ _ _ _ (show 0 < 32 by decide), byteAt_encode _ _ _ _ (show 4 < 32 by decide)]
  have hb : codeBelow 8 (BitVec.ofNat 8 b.bank.val) = some b.bank := codeBelow_ofNat b.bank (by decide)
  change (if (decide (1 ≤ b.work.kindCode.toNat) && decide (b.work.kindCode.toNat ≤ 6) &&
    (b.work.kindCode.toNat != 5)) = true then codeBelow 8 (BitVec.ofNat 8 b.bank.val) else none) = _
  rw [hb]
  unfold SegBody.bankUse
  cases b.work <;> rfl

theorem notify_encode (tag : BitVec 16) (notify : Bool) (b : SegBody) :
    (byteAt (encodeSegment tag notify b) 5).getLsbD 0 = notify := by
  rw [byteAt_encode _ _ _ _ (show 5 < 32 by decide)]
  change (b.work.flagBits ||| (if notify then 1 else 0)).getLsbD 0 = notify
  cases b.work with
  | run r f => cases f <;> cases notify <;> simp [Work.flagBits]
  | home t v x y => cases x <;> cases y <;> cases notify <;> simp [Work.flagBits]
  | _ => cases notify <;> simp [Work.flagBits]

/-- Settles O34. -/
theorem segmentRecordsRoundTrip : Obligations.SegmentRecordsRoundTrip := by
  refine ⟨fun r => ?_, fun tag notify b h => ?_⟩
  · refine ⟨?_, rfl, rfl, fun k => decodeBankUse_eq_some r k⟩
    refine (decodeBody_ne_none r).trans ?_
    rw [decodeWork_ne_none, decodeStart_ne_none, codeBelow_ne_none, decodePost_ne_none, decodeOut_ne_none,
      decodeOut_ne_none, Nat.lt_succ_iff, and_assoc, and_assoc]
  · unfold decodeSegment
    rw [tag_encode, notify_encode, bankUse_encode, decodeBody_encode tag notify b h]

end Sys2Proof.Proofs

/-! The owed list and the Signal Board (section 9.2 and section 2.4): the placement of a notice that becomes
owed, the claim of an axis whose condition is met, and a post. -/

namespace Sys2Proof.Proofs

open Sys2Proof.Machine Sys2Proof.Safety Sys2Proof.Laws

/-! ### Places -/

section
variable (s : State)

theorem free_pos_iff : 0 < s.queue.free ↔
    s.queue.reserved.length + s.queue.filled.length + (if s.queue.writing = none then 0 else 1) < 8 := by
  rw [free_pos, Queue.held, placeCount]
  cases s.queue.writing <;> simp

/-- The arbiter can place a record: the Completion Unit runs and a place is FREE (R156). -/
theorem placing_iff : (s.active = true ∧ 0 < s.queue.free) ↔ (s.dev = .run ∨ s.dev = .drain) ∧
    s.queue.reserved.length + s.queue.filled.length + (if s.queue.writing = none then 0 else 1) < 8 := by
  rw [active_iff, free_pos_iff]

theorem placeRecord_free (c : Completion) (h : 0 < s.queue.free) : s.placeRecord c =
    { s with queue := { s.queue with filled := s.queue.filled ++ [c] } } := if_pos h

/-! ### The owed list -/

theorem serveOwedUpTo_blocked (n : Nat) (h : ¬ (s.active = true ∧ 0 < s.queue.free)) : serveOwedUpTo n s = s := by
  cases n with
  | zero => rfl
  | succ n =>
    rw [serveOwedUpTo, if_neg]
    simp only [Bool.and_eq_true, decide_eq_true_eq]
    exact fun k => h k.1

theorem serveOwedUpTo_empty (n : Nat) (h : s.owed = []) : serveOwedUpTo n s = s := by
  cases n with
  | zero => rfl
  | succ n =>
    rw [serveOwedUpTo, if_neg]
    simp [h]

/-- Where nothing can be placed, the notice waits at the tail of the owed list. -/
theorem owe_blocked (o : Owed) (h : ¬ (s.active = true ∧ 0 < s.queue.free)) :
    s.owe o = { s with owed := s.owed ++ [o] } :=
  serveOwedUpTo_blocked { s with owed := s.owed ++ [o] } _ h

theorem placeFirstOwed_cons {o : Owed} {rest : List Owed} {c : Completion} (ho : s.owed = o :: rest)
    (hn : noticeRecord s o = some c) : s.placeFirstOwed = sourcePlaced ({ s with owed := rest }.placeRecord c) o := by
  simp only [State.placeFirstOwed, ho, hn]

/-- Where a place is FREE and nothing is owed before it, the notice is placed at once. -/
theorem owe_placed (o : Owed) {c : Completion} (h : s.active = true ∧ 0 < s.queue.free) (ho : s.owed = [])
    (hn : noticeRecord { s with owed := [o] } o = some c) : s.owe o =
    sourcePlaced { s with owed := [], queue := { s.queue with filled := s.queue.filled ++ [c] } } o := by
  obtain ⟨ha, hf⟩ := h
  have e : s.owe o = serveOwedUpTo 1 { s with owed := [o] } := by
    unfold State.owe State.serveOwed
    rw [ho]
    rfl
  rw [e]
  change (if (s.active && decide (0 < s.queue.free) && _) = true then _ else _) = _
  rw [ha, decide_eq_true hf]
  refine (if_pos rfl).trans ?_
  rw [serveOwedUpTo, placeFirstOwed_cons { s with owed := [o] } (o := o) (rest := []) rfl hn]
  exact congrArg (sourcePlaced · o) (if_pos hf)

/-- What the placement of notices can change: the owed list, the places, the capture units and the overflow
mask. -/
theorem sourcePlaced_eq (o : Owed) : ∃ c m, sourcePlaced s o = { s with caps := c, overflowMask := m } := by
  unfold sourcePlaced
  split
  · split
    · exact ⟨_, _, rfl⟩
    · exact ⟨_, _, rfl⟩
    · exact ⟨s.caps, s.overflowMask, rfl⟩
  · exact ⟨_, _, rfl⟩
  · exact ⟨s.caps, s.overflowMask, rfl⟩
  · exact ⟨s.caps, s.overflowMask, rfl⟩

theorem placeRecord_eq (c : Completion) : ∃ l, s.placeRecord c = { s with queue := { s.queue with filled := l } } := by
  unfold State.placeRecord
  split
  · exact ⟨_, rfl⟩
  · exact ⟨s.queue.filled, rfl⟩

theorem placeFirstOwed_eq : ∃ w l c m, s.placeFirstOwed =
    { s with owed := w, queue := { s.queue with filled := l }, caps := c, overflowMask := m } := by
  unfold State.placeFirstOwed
  split
  · exact ⟨s.owed, s.queue.filled, s.caps, s.overflowMask, rfl⟩
  next o rest ho =>
    dsimp only
    split
    next c hc =>
      obtain ⟨l, hl⟩ := placeRecord_eq { s with owed := rest } c
      rw [hl]
      obtain ⟨v, m, h⟩ := sourcePlaced_eq { s with owed := rest, queue := { s.queue with filled := l } } o
      exact ⟨rest, l, v, m, h⟩
    · exact ⟨rest, s.queue.filled, s.caps, s.overflowMask, rfl⟩

theorem serveOwedUpTo_eq (n : Nat) : ∀ s : State, ∃ w l c m, serveOwedUpTo n s =
    { s with owed := w, queue := { s.queue with filled := l }, caps := c, overflowMask := m } := by
  induction n with
  | zero => exact fun s => ⟨s.owed, s.queue.filled, s.caps, s.overflowMask, rfl⟩
  | succ n ih =>
    intro s
    rw [serveOwedUpTo]
    split
    · obtain ⟨w, l, c, m, h⟩ := placeFirstOwed_eq s
      rw [h]
      obtain ⟨w', l', c', m', h'⟩ := ih { s with owed := w, queue := { s.queue with filled := l }, caps := c,
                                                 overflowMask := m }
      exact ⟨w', l', c', m', h'⟩
    · exact ⟨s.owed, s.queue.filled, s.caps, s.overflowMask, rfl⟩

theorem owe_eq (o : Owed) : ∃ w l c m, s.owe o =
    { s with owed := w, queue := { s.queue with filled := l }, caps := c, overflowMask := m } := by
  obtain ⟨w, l, c, m, h⟩ := serveOwedUpTo_eq (s.owed ++ [o]).length { s with owed := s.owed ++ [o] }
  exact ⟨w, l, c, m, h⟩

end

/-! ### The claim of an axis whose condition is met -/

section
variable (s : State) (a b : Axis)

theorem meet_waiting (h : (s.seq a).sq = .wait .cond) : s.meet a = s.claimStart a := if_pos h

theorem meet_other (h : (s.seq a).sq ≠ .wait .cond) : s.meet a = s := if_neg h

theorem claimStart_eq : ∃ v, s.claimStart a = { s with axes := v, claims := s.claims ++ [.axis a] } := ⟨_, rfl⟩

theorem seq_claimStart : (s.claimStart a).seq b =
    if b = a then { (s.seq a).setHead (.pending .waitStart) with sq := .wait .place } else s.seq b := by
  change ((s.setProgress a .waitStart).setSq a (.wait .place)).seq b = _
  rw [seq_setSq, State.setProgress, seq_modSeq, seq_modSeq, if_pos rfl]
  split <;> rfl

theorem meet_eq : ∃ v c, s.meet a = { s with axes := v, claims := c } := by
  unfold State.meet
  split
  · obtain ⟨v, h⟩ := claimStart_eq s a
    exact ⟨v, _, h⟩
  · exact ⟨s.axes, s.claims, rfl⟩

theorem judgeHead_eq (n : SignalNo) : ∃ v c, s.judgeHead n = { s with axes := v, claims := c } := by
  unfold State.judgeHead
  split
  · split
    · exact meet_eq s _
    · exact ⟨s.axes, s.claims, rfl⟩
  · exact ⟨s.axes, s.claims, rfl⟩

theorem mg_judgeHead (n : SignalNo) : (s.judgeHead n).mg b = s.mg b := by
  unfold State.judgeHead
  split
  · split
    · exact mg_meet s _ b
    · rfl
  · rfl

theorem judgeHead_cons {n : SignalNo} {rest : List Axis} (h : (s.signal n).waiters = a :: rest) :
    s.judgeHead n = if 0 < (s.signal n).count then s.meet a else s := by
  simp only [State.judgeHead, h]

theorem judgeHead_nil {n : SignalNo} (h : (s.signal n).waiters = []) : s.judgeHead n = s := by
  simp only [State.judgeHead, h]

end

/-! ### A post -/

section
variable (s : State) (n : SignalNo) (k : Nat)

/-- The state of a post before its head waiter is judged. -/
def posted : State :=
  let t := s.modSignal n fun x => { x with count := min ((s.signal n).count + k) 15 }
  if 15 < (s.signal n).count + k then t.overflow n else t

theorem postSignal_eq : s.postSignal n k = (posted s n k).judgeHead n := rfl

theorem overflow_eq : ∃ w l c m i, s.overflow n =
    { s with owed := w, queue := { s.queue with filled := l }, caps := c, overflowMask := m, overflowTime := i } := by
  unfold State.overflow
  split
  · obtain ⟨w, l, c, m, h⟩ := owe_eq { s with overflowMask := 1#16 <<< n.val, overflowTime := s.time } .signalOverflow
    exact ⟨w, l, c, m, _, h⟩
  · exact ⟨s.owed, s.queue.filled, s.caps, _, s.overflowTime, rfl⟩

/-- Up to the judging of the head waiter a post changes the signal, the owed list, the places, the capture units
and the overflow mask. -/
theorem posted_eq : ∃ w l c m i, posted s n k =
    { s.modSignal n (fun x => { x with count := min ((s.signal n).count + k) 15 }) with
      owed := w, queue := { s.queue with filled := l }, caps := c, overflowMask := m, overflowTime := i } := by
  unfold posted
  dsimp only
  split
  · exact overflow_eq (s.modSignal n fun x => { x with count := min ((s.signal n).count + k) 15 }) n
  · exact ⟨s.owed, s.queue.filled, s.caps, s.overflowMask, s.overflowTime, rfl⟩

theorem signal_posted (m : SignalNo) : (posted s n k).signal m =
    if m = n then { s.signal n with count := min ((s.signal n).count + k) 15 } else s.signal m := by
  obtain ⟨w, l, c, v, i, h⟩ := posted_eq s n k
  rw [h]
  exact signal_modSignal s n m fun x => { x with count := min ((s.signal n).count + k) 15 }

theorem seq_posted (a : Axis) : (posted s n k).seq a = s.seq a := by
  obtain ⟨w, l, c, v, i, h⟩ := posted_eq s n k
  rw [h]; rfl

theorem signal_postSignal (m : SignalNo) : (s.postSignal n k).signal m =
    if m = n then { s.signal n with count := min ((s.signal n).count + k) 15 } else s.signal m := by
  obtain ⟨v, c, h⟩ := judgeHead_eq (posted s n k) n
  rw [postSignal_eq, h]
  exact signal_posted s n k m

/-- The judging of the head waiter leaves the owed list, the places and the overflow mask as the post left
them. -/
theorem postSignal_owing : (s.postSignal n k).overflowMask = (posted s n k).overflowMask ∧
    (s.postSignal n k).overflowTime = (posted s n k).overflowTime ∧
    (s.postSignal n k).owed = (posted s n k).owed ∧ (s.postSignal n k).queue = (posted s n k).queue := by
  obtain ⟨v, c, h⟩ := judgeHead_eq (posted s n k) n
  rw [postSignal_eq, h]
  exact ⟨rfl, rfl, rfl, rfl⟩

theorem postSignal_outside : (s.postSignal n k).rdv = s.rdv ∧ (s.postSignal n k).outs = s.outs := by
  obtain ⟨v, c, h⟩ := judgeHead_eq (posted s n k) n
  obtain ⟨w, l, c', m, i, h'⟩ := posted_eq s n k
  rw [postSignal_eq, h, h']
  exact ⟨rfl, rfl⟩

theorem mg_postSignal (a : Axis) : (s.postSignal n k).mg a = s.mg a := by
  obtain ⟨w, l, c', m, i, h'⟩ := posted_eq s n k
  rw [postSignal_eq, mg_judgeHead, h']
  rfl

end

theorem map_mg_eq {s t : State} (h : ∀ a, t.mg a = s.mg a) : t.axes.map AxisState.mg = s.axes.map AxisState.mg := by
  refine Vector.ext fun i hi => ?_
  have := h ⟨i, hi⟩
  simpa [State.mg, State.axis, Vector.get_eq_getElem] using this

/-- Settles O45: the count first, then the overflow by its cases, and last the head waiter. -/
theorem postRaisesTheCount : Obligations.PostRaisesTheCount := by
  intro s n k t used served
  obtain ⟨hm, hi, ho, hq⟩ := postSignal_owing s n k
  have hserved : served ↔ (s.active = true ∧ 0 < s.queue.free) := (placing_iff s).symm
  generalize hu : s.modSignal n (fun x => { x with count := min ((s.signal n).count + k) 15 }) = u
  have ovf (h : 15 < (s.signal n).count + k) : posted s n k = u.overflow n := by
    rw [← hu]; exact if_pos h
  refine ⟨?_, ?_, fun m h => ?_, fun h => ?_, fun h => ⟨fun k0 => ?_, fun k0 kn => ?_, fun k0 kn ke => ?_⟩,
    fun a rest hw hc hs => ?_, map_mg_eq fun a => mg_postSignal s n k a, (postSignal_outside s n k).1,
    (postSignal_outside s n k).2⟩
  · rw [signal_postSignal, if_pos rfl]
  · rw [signal_postSignal, if_pos rfl]
  · rw [signal_postSignal, if_neg h]
  · have e : posted s n k = s.modSignal n fun x => { x with count := min ((s.signal n).count + k) 15 } :=
      if_neg (not_lt.2 h)
    rw [hm, ho, hq, e]
    exact ⟨rfl, rfl, rfl⟩
  · have e : posted s n k = { u with overflowMask := s.overflowMask ||| (1#16 <<< n.val) } := by
      rw [ovf h, ← hu]; exact if_neg k0
    rw [hm, hi, ho, hq, e, ← hu]
    exact ⟨rfl, rfl, rfl, rfl⟩
  · have e : posted s n k = { u with overflowMask := 1#16 <<< n.val, overflowTime := s.time,
                                     owed := s.owed ++ [.signalOverflow] } := by
      have b := owe_blocked { u with overflowMask := 1#16 <<< n.val, overflowTime := s.time } .signalOverflow
        (by rw [← hu]; exact mt hserved.2 kn)
      rw [ovf h]
      refine Eq.trans ?_ (b.trans (by rw [← hu]; rfl))
      rw [← hu]
      exact if_pos k0
    rw [hm, hi, ho, hq, e, ← hu]
    exact ⟨rfl, rfl, rfl, rfl⟩
  · have b := owe_placed { u with overflowMask := 1#16 <<< n.val, overflowTime := s.time } .signalOverflow
      (by rw [← hu]; exact hserved.1 kn) (by rw [← hu]; exact ke) rfl
    have e : posted s n k = _ := (ovf h).trans (Eq.trans (by rw [← hu]; exact if_pos k0) b)
    rw [hm, ho, hq, e, ← hu]
    exact ⟨rfl, rfl, rfl⟩
  · have e : t = (posted s n k).claimStart a := by
      have hx : ((posted s n k).signal n).waiters = a :: rest := by rw [signal_posted, if_pos rfl]; exact hw
      change s.postSignal n k = _
      rw [postSignal_eq, judgeHead_cons _ a hx, signal_posted, if_pos rfl, if_pos (by dsimp only; omega), meet_waiting]
      rw [seq_posted]; exact hs
    rw [e]
    refine ⟨by rw [seq_claimStart, if_pos rfl], ?_⟩
    exact List.mem_append_right _ (List.mem_singleton.2 rfl)

end Sys2Proof.Proofs

/-! The commands of the CTL ring, first part (chapter 8): the tests of a record's arguments, the outcome of a
record that is taken, and the commands on banks, signals, rendezvous entries, outputs, capture units and
the queries. -/

namespace Sys2Proof.Proofs

open Sys2Proof.Machine Sys2Proof.Safety Sys2Proof.Laws

/-! ### The tests of a record -/

section
variable {r : Record} {α : Type}

theorem flagsOk_iff : flagsOk r = true ↔ (byteAt r 1).toNat ≤ 1 := by simp [flagsOk]

theorem accept_eq (a : Nat) (ok : Bool) (x : α) (hf : (byteAt r 1).toNat ≤ 1) (hz : zeroBytes r a 32 = true) :
    accept r a ok x = if ok then some x else none := by
  simp [accept, flagsOk_iff.2 hf, hz]

theorem accept_some {a : Nat} {ok : Bool} {x y : α} : accept r a ok x = some y ↔
    (byteAt r 1).toNat ≤ 1 ∧ zeroBytes r a 32 = true ∧ ok = true ∧ x = y := by
  rw [← flagsOk_iff]
  unfold accept
  cases flagsOk r <;> cases zeroBytes r a 32 <;> cases ok <;> simp

theorem accept_none {a : Nat} {ok : Bool} {x : α} (h : 1 < (byteAt r 1).toNat ∨ zeroBytes r a 32 = false) :
    accept r a ok x = none := by
  have hf : 1 < (byteAt r 1).toNat → flagsOk r = false := fun h =>
    Bool.eq_false_iff.2 fun k => absurd (flagsOk_iff.1 k) (not_le.2 h)
  rcases h with h | h
  · simp [accept, hf h]
  · simp [accept, h]

end

section
variable {b : Byte}

theorem codeBelow_none {n : Nat} (h : n ≤ b.toNat) : codeBelow n b = none := dif_neg (not_lt.2 h)

theorem codeBelow_val {n : Nat} {k : Fin n} (h : b.toNat = k.val) : codeBelow n b = some k := codeBelow_eq_some.2 h

theorem codeSet_some (h : b.toNat ≤ 15) : codeSet b = some (b.setWidth 4) := if_pos (by omega)

theorem codeSet_none (h : 15 < b.toNat) : codeSet b = none := if_neg (by omega)

theorem codeKind_one (h : b = 1) : codeKind b = some .hard := by rw [h]; rfl

/-- A stop kind is coded 0 or 1. -/
theorem codeKind_some (h : b.toNat ≤ 1) : codeKind b = some (if b = 1 then .hard else .soft) := by
  obtain h | h : b = 0 ∨ b = 1 := by
    rcases Nat.le_one_iff_eq_zero_or_eq_one.1 h with h | h
    · exact .inl (BitVec.eq_of_toNat_eq h)
    · exact .inr (BitVec.eq_of_toNat_eq h)
  · subst h; rfl
  · subst h; rfl

theorem codeKind_none (h : 1 < b.toNat) : codeKind b = none := by
  unfold codeKind
  split
  · omega
  · omega
  · rfl

theorem codeFlag_some (h : b.toNat ≤ 1) : codeFlag b = some (decide (b = 1)) := by
  obtain h | h : b = 0 ∨ b = 1 := by
    rcases Nat.le_one_iff_eq_zero_or_eq_one.1 h with h | h
    · exact .inl (BitVec.eq_of_toNat_eq h)
    · exact .inr (BitVec.eq_of_toNat_eq h)
  · subst h; rfl
  · subst h; rfl

theorem codeFlag_none (h : 1 < b.toNat) : codeFlag b = none := by
  unfold codeFlag
  split
  · omega
  · omega
  · rfl

theorem codeEdge_none (h : b.toNat = 0 ∨ 3 < b.toNat) : codeEdge b = none := by
  unfold codeEdge
  split
  · omega
  · omega
  · omega
  · rfl

theorem codePage_none (h : 3 < b.toNat) : codePage b = none := by
  unfold codePage
  split
  · omega
  · omega
  · omega
  · omega
  · rfl

end

/-! ### The outcome of a record that is taken -/

section
variable {s : State} {r : Record} {k : Byte}

theorem namesCommand_iff : namesCommand r = true ↔ 1 ≤ (byteAt r 0).toNat ∧ (byteAt r 0).toNat ≤ 16 := by
  simp only [namesCommand, Bool.and_eq_true, decide_eq_true_eq]
  rfl

/-- The kind codes of the sixteen commands. -/
theorem names_of_takesKind (h : takesKind s r k) (hk : 1 ≤ k.toNat ∧ k.toNat ≤ 16) : namesCommand r = true := by
  refine namesCommand_iff.2 ?_
  have e : byteAt r 0 = k := h.2
  rw [e]; exact hk

theorem withArgs_some {α : Type} {x : Option α} {y : α} {f : α → State → State × Answer} (h : takesKind s r k)
    (hk : 1 ≤ k.toNat ∧ k.toNat ≤ 16) (hx : x = some y) :
    s.ctlEvent k r (withArgs x f) = .next (commandEnd s (f y s.takeCtl).1 r (f y s.takeCtl).2) := by
  rw [ctlEvent_takes s r _ h (names_of_takesKind h hk), hx]
  rfl

theorem withArgs_none {α : Type} {x : Option α} {f : α → State → State × Answer} (h : takesKind s r k)
    (hk : 1 ≤ k.toNat ∧ k.toNat ≤ 16) (hx : x = none) :
    s.ctlEvent k r (withArgs x f) = .next (commandEnd s s.takeCtl r ⟨.badField, 0, 0, 0⟩) := by
  rw [ctlEvent_takes s r _ h (names_of_takesKind h hk), hx]
  rfl

/-- The outcome of a record with its arguments, where the effect and the answer are known. -/
theorem withArgs_ends {α : Type} {x : Option α} {y : α} {f : α → State → State × Answer} {t : State} {z : Answer}
    (h : takesKind s r k) (hk : 1 ≤ k.toNat ∧ k.toNat ≤ 16) (hx : x = some y) (hf : f y s.takeCtl = (t, z)) :
    s.ctlEvent k r (withArgs x f) = .next (commandEnd s t r z) := by
  rw [withArgs_some h hk hx, hf]

end

/-! ### Banks -/

/-- Settles O43: the answers of WRITE_BANK, and the written flag over every command but the hard resets. -/
theorem writeBankFillsAnUnusedBank : Obligations.WriteBankFillsAnUnusedBank := by
  refine ⟨fun s r b h hf hb hz => ?_, fun c s t b he hc hw => written_exec he hc hw⟩
  intro p good x
  have hk : 1 ≤ (8 : Byte).toNat ∧ (8 : Byte).toNat ≤ 16 := by decide
  have harg : argWriteBank r = if zeroBytes r 5 8 && within 1 8000000 p.accel && within 1 8000000 p.decel &&
      decide (p.vstart ≤ 1000000) && decide (p.vstop ≤ 1000000) then some (b, p) else none := by
    simp only [argWriteBank, codeBelow_val hb]
    exact accept_eq _ _ _ hf hz
  have hgood : (zeroBytes r 5 8 && within 1 8000000 p.accel && within 1 8000000 p.decel &&
      decide (p.vstart ≤ 1000000) && decide (p.vstop ≤ 1000000)) = true ↔ good := by
    simp only [within, Bool.and_eq_true, decide_eq_true_eq, good, and_assoc]
  refine ⟨fun hg hu => ?_, fun hg hu => ?_, fun hg => ?_⟩
  · exact withArgs_ends h hk (harg.trans (if_pos (hgood.2 hg))) (if_pos hu)
  · exact withArgs_ends h hk (harg.trans (if_pos (hgood.2 hg))) (if_neg (Nat.not_lt.2 hu.le))
  · exact withArgs_none h hk (harg.trans (if_neg (mt hgood.1 hg)))

/-! ### Signals -/

/-- Settles O44. -/
theorem postSignalPosts : Obligations.PostSignalPosts := by
  intro s r h hf hz k
  have hk : 1 ≤ (9 : Byte).toNat ∧ (9 : Byte).toNat ≤ 16 := by decide
  refine ⟨fun hb => ?_, fun n hn h1 h2 => ?_⟩
  · refine withArgs_none h hk ?_
    unfold argPostSignal
    cases hc : codeBelow 16 (byteAt r 4) with
    | none => rfl
    | some n =>
      have hn : (byteAt r 4).toNat < 16 := codeBelow_ne_none.1 (by simp [hc])
      refine (accept_eq _ _ _ hf hz).trans (if_neg ?_)
      simp only [within, Bool.and_eq_true, decide_eq_true_eq]
      omega
  · refine withArgs_ends (f := postSignal) (y := (n, k)) h hk ?_ ?_
    · simp only [argPostSignal, codeBelow_val hn]
      refine (accept_eq _ _ _ hf hz).trans (if_pos ?_)
      simp only [within, Bool.and_eq_true, decide_eq_true_eq]
      omega
    · change (_, Answer.ok _ (BitVec.ofNat 32 ((s.takeCtl.postSignal n k).signal n).count) 0) = _
      rw [signal_postSignal, if_pos rfl]
      refine congrArg (Prod.mk _) ?_
      change Answer.ok (flagByte (decide (15 < (s.signal n).count + k))) _ _ = _
      rw [flagByte]
      simp only [decide_eq_true_eq]
      rfl

/-- Settles O46. -/
theorem clearSignalClearsTheCount : Obligations.ClearSignalClearsTheCount := by
  intro s r h hf hz
  have hk : 1 ≤ (10 : Byte).toNat ∧ (10 : Byte).toNat ≤ 16 := by decide
  refine ⟨fun hb => ?_, fun n hn => ?_⟩
  · exact withArgs_none h hk (by simp only [argClearSignal, codeBelow_none hb])
  · refine withArgs_ends (f := clearSignal) (y := n) h hk ?_ rfl
    simp only [argClearSignal, codeBelow_val hn]
    exact accept_eq _ _ _ hf hz

/-! ### Rendezvous entries -/

theorem setWidth4_ne_zero {b : Byte} (h1 : 1 ≤ b.toNat) (h2 : b.toNat ≤ 15) : b.setWidth 4 ≠ (0 : BitVec 4) := by
  intro k
  have e : (b.setWidth 4).toNat = 0 := by rw [k]; rfl
  rw [BitVec.toNat_setWidth] at e
  omega

theorem openRendezvous_closed {x : EntryNo × BitVec 4} {s : State} (h : (s.entry x.1).state = .closed) :
    openRendezvous x s = (s.modEntry x.1 fun _ => ⟨.opened, x.2, 0, 0, 0⟩, ⟨.ok, 1, x.2.setWidth 32, 0⟩) := by
  refine (if_pos h).trans ?_
  simp only [entry_modEntry, if_true]
  rfl

theorem closeRendezvous_busy {e : EntryNo} {s : State} (h : (s.entry e).state = .opened)
    (k : (s.entry e).arrived ≠ 0) :
    closeRendezvous e s = (s, ⟨.entryBusy, 1, (s.entry e).arrived.setWidth 32, (s.entry e).lastFire⟩) := by
  simp only [closeRendezvous, h, k, decide_true, Bool.true_and, ne_eq, not_false_eq_true, if_true]
  rfl

theorem closeRendezvous_done {e : EntryNo} {s : State} (h : (s.entry e).state = .opened → (s.entry e).arrived = 0) :
    closeRendezvous e s = (if (s.entry e).state = .closed then s
      else s.modEntry e fun r => { r with state := .closed, members := 0, arrived := 0 },
      .ok (s.entry e).state.code ((s.entry e).fireCount.setWidth 32) (s.entry e).lastFire) := by
  refine if_neg ?_
  simp only [Bool.and_eq_true, decide_eq_true_eq, not_and]
  exact fun k j => j (h k)

/-- Settles O47, by the state of the entry. -/
theorem rendezvousOpensAndCloses : Obligations.RendezvousOpensAndCloses := by
  intro s r e ht hf he x m opens closes
  have taken (k : Byte) (h : byteAt r 0 = k) : takesKind s r k := ⟨ht, h⟩
  refine ⟨fun hk0 hz => ⟨fun h1 h2 => ?_, fun hb => ?_⟩, fun hk0 hz => ?_⟩
  · have ha : argOpenRendezvous r = some (e, m) := by
      simp only [argOpenRendezvous, codeBelow_val he, codeSet_some h2]
      exact (accept_eq _ _ _ hf hz).trans (if_pos (bne_iff_ne.2 (setWidth4_ne_zero h1 h2)))
    exact ⟨fun hx => withArgs_ends (taken 11 hk0) (by decide) ha (openRendezvous_closed hx),
      fun hx => withArgs_ends (taken 11 hk0) (by decide) ha (if_neg hx)⟩
  · refine withArgs_none (taken 11 hk0) (by decide) ?_
    simp only [argOpenRendezvous, codeBelow_val he]
    rcases hb with hb | hb
    · have hz4 : (byteAt r 5).setWidth 4 = (0 : BitVec 4) := by
        rw [(byte_eq_zero_iff _).2 hb]; rfl
      rw [codeSet_some (by omega)]
      refine (accept_eq _ _ _ hf hz).trans (if_neg ?_)
      simpa using hz4
    · rw [codeSet_none hb]
  · intro shut
    have ha : argCloseRendezvous r = some e := by
      simp only [argCloseRendezvous, codeBelow_val he]
      exact accept_eq _ _ _ hf hz
    have done {t : State} {z : Answer} (h : closeRendezvous e s.takeCtl = (t, z)) : closes t z :=
      withArgs_ends (taken 12 hk0) (by decide) ha h
    have shuts (h : x.state ≠ .closed) (k : x.state = .opened → x.arrived = 0) : closeRendezvous e s.takeCtl =
        (shut, .ok x.state.code (x.fireCount.setWidth 32) x.lastFire) :=
      (closeRendezvous_done (s := s.takeCtl) k).trans (congrArg (·, _) (if_neg h))
    refine ⟨fun hx ha => done (closeRendezvous_busy hx ha), fun hx ha => ?_, fun hx => ?_, fun hx => ?_⟩
    · have := shuts (by rw [hx]; decide) fun _ => ha
      rw [hx] at this
      exact done this
    · have := shuts (by rw [hx]; decide) (by rw [hx]; simp)
      rw [hx] at this
      exact done this
    · have := (closeRendezvous_done (s := s.takeCtl) (e := e) (fun k => absurd (hx.symm.trans k) (by decide))).trans
        (congrArg (·, _) (if_pos hx))
      have hc : (s.takeCtl.entry e).state = .closed := hx
      rw [hc] at this
      exact done this

/-! ### Outputs -/

/-- Settles O40. -/
theorem setOutputsTakesTheMask : Obligations.SetOutputsTakesTheMask := by
  intro s r h hf hz m v
  refine ⟨fun hb => ?_, fun hm hv => ⟨(s.outs &&& ~~~m) ||| (v &&& m), fun i => ?_, ?_⟩⟩
  · refine withArgs_none h (by decide) ?_
    unfold argSetOutputs
    rcases hb with hb | hb
    · rw [codeSet_none hb]
    · rw [codeSet_none hb]
      cases codeSet (byteAt r 4) <;> rfl
  · have hi := i.isLt
    simp only [BitVec.getLsbD_or, BitVec.getLsbD_and, BitVec.getLsbD_not, hi, decide_true, Bool.true_and]
    cases m.getLsbD i <;> simp
  · have harg : argSetOutputs r = some ⟨m, v⟩ := by
      simp only [argSetOutputs, codeSet_some hm, codeSet_some hv]
      exact accept_eq _ _ _ hf hz
    have e : setOutputs ⟨m, v⟩ s.takeCtl = ({ s.takeCtl with outs := (s.outs &&& ~~~m) ||| (v &&& m) },
        .ok 0 (s.outs.setWidth 32) (((s.outs &&& ~~~m) ||| (v &&& m)).setWidth 32)) := rfl
    change s.ctlEvent 4 r (withArgs (argSetOutputs r) setOutputs) = _
    exact withArgs_ends h (by decide) harg e

/-! ### HALT -/

section
variable {s : State} {a : Axis} (r : HaltReason) (k : StopKind) (common : Bool)

theorem haltCause_live (h : live s a) : s.haltCause a r k common = haltEvent haltDepth a r k common s := by
  unfold State.haltCause
  rcases h with h | ⟨c, h⟩ | h <;> simp only [h]

theorem haltCause_halting (h : (s.seq a).sq = .halting) : s.haltCause a r k common = s.furtherCause a r k := by
  simp only [State.haltCause, h]

theorem haltCause_stopped (h : (s.seq a).sq = .off ∨ (s.seq a).sq = .halted) : s.haltCause a r k common = s := by
  rcases h with h | h <;> simp only [State.haltCause, h]

theorem haltByte_live (h : live s a) : haltByte (s.seq a).sq = 2 := by
  rcases h with h | ⟨c, h⟩ | h <;> rw [h] <;> rfl

end

/-- Settles O48. -/
theorem haltActsByState : Obligations.HaltActsByState := by
  intro s r a h hf ha hz u k q ends
  refine ⟨fun hb => ?_, fun hb => ?_⟩
  · have harg : argHalt r = some (a, k) := by
      simp only [argHalt, codeBelow_val ha, codeKind_some hb]
      exact accept_eq _ _ _ hf hz
    have done {t : State} {byte : Byte} (ht : u.haltCause a .host k false = t) (hb : haltByte q.sq = byte) :
        ends t byte := by
      refine withArgs_ends (f := halt) h (by decide) harg ?_
      change (u.haltCause a .host k false, Answer.ok (haltByte q.sq)
        ((reasonCode ((u.haltCause a .host k false).seq a).reason).setWidth 32) (word32 (s.mg a).pos)) = _
      rw [ht, hb]
      rfl
    refine ⟨fun hq => done (haltCause_stopped _ _ _ hq) ?_, fun hq => done (haltCause_halting _ _ _ hq) ?_,
      fun hq => done (haltCause_live (s := u) _ _ _ hq) (haltByte_live hq)⟩
    · rcases hq with hq | hq <;> rw [hq] <;> rfl
    · rw [hq]; rfl
  · refine withArgs_none h (by decide) ?_
    simp only [argHalt, codeBelow_val ha, codeKind_none hb]

/-! ### Capture units -/

theorem armCapture_eq (x : UnitNo × CapConfig) (s : State) : armCapture x s =
    if s.dev = .drain then (s, ⟨.draining, (s.cap x.1).code, flagWord (s.line x.2.line).filtered, 0⟩)
    else if s.cap x.1 ≠ .disarmed then
      (s, ⟨.unitBusy, (s.cap x.1).code, flagWord (s.line x.2.line).filtered, 0⟩)
    else (s.setCap x.1 (.armed x.2), ⟨.ok, 1, flagWord (s.line x.2.line).filtered, 0⟩) := by
  unfold armCapture
  simp only [cap_setCap, if_true]
  rfl

/-- Settles O50. -/
theorem armCaptureStoresItsConfiguration : Obligations.ArmCaptureStoresItsConfiguration := by
  intro s r h hf hz
  refine ⟨fun hb => ?_, fun u l g a k hu hl hg ha hk => ?_⟩
  · refine withArgs_none h (by decide) ?_
    unfold argArmCapture
    split
    next u l e a m h1 h2 h3 h4 h5 =>
      have h1 : (byteAt r 4).toNat < 4 := codeBelow_ne_none.1 (by simp [h1])
      have h2 : (byteAt r 5).toNat < 12 := codeBelow_ne_none.1 (by simp [h2])
      have h4 : (byteAt r 7).toNat < 4 := codeBelow_ne_none.1 (by simp [h4])
      have e3 : ¬ ((byteAt r 6).toNat = 0 ∨ 3 < (byteAt r 6).toNat) := fun k => by
        rw [codeEdge_none k] at h3; cases h3
      have e5 : ¬ 1 < (byteAt r 8).toNat := fun k => by rw [codeFlag_none k] at h5; cases h5
      omega
    next => rfl
  · have hedge : codeEdge (byteAt r 6) = some g := by rw [hg]; cases g <;> rfl
    have hflag : codeFlag (byteAt r 8) = some k := by rw [hk]; cases k <;> rfl
    have harg : argArmCapture r = some (u, ⟨l, g, a, k⟩) := by
      simp only [argArmCapture, codeBelow_val hu, codeBelow_val hl, codeBelow_val ha, hedge, hflag]
      exact accept_eq _ _ _ hf hz
    intro level ends
    have done {t : State} {z : Answer} (e : armCapture (u, ⟨l, g, a, k⟩) s.takeCtl = (t, z)) : ends t z :=
      withArgs_ends h (by decide) harg e
    refine ⟨fun hd => done ?_, fun hd hc => done ?_, fun hd hc => done ?_⟩
    · rw [armCapture_eq]; exact if_pos hd
    · rw [armCapture_eq]; exact (if_neg hd).trans (if_pos hc)
    · rw [armCapture_eq]; exact (if_neg hd).trans (if_neg (not_not.2 hc))

/-- Settles O51. -/
theorem disarmCaptureWithdrawsTheNotice : Obligations.DisarmCaptureWithdrawsTheNotice := by
  intro s r h hf hz
  refine ⟨fun hb => ?_, fun u hu => ?_⟩
  · exact withArgs_none h (by decide) (by simp only [argDisarmCapture, codeBelow_none hb])
  · have harg : argDisarmCapture r = some u := by
      simp only [argDisarmCapture, codeBelow_val hu]
      exact accept_eq _ _ _ hf hz
    intro ends gone
    have done {t : State} {z : Answer} (e : disarmCapture u s.takeCtl = (t, z)) : ends t z :=
      withArgs_ends h (by decide) harg e
    have cap {c : CapUnit} (hc : s.cap u = c) : s.takeCtl.cap u = c := hc
    refine ⟨fun hc => done ?_, fun c hc => done ?_, fun c p hc => done ?_, fun c p hc => done ?_⟩ <;>
      simp only [disarmCapture, cap hc] <;> rfl

/-! ### Queries -/

/-- The bits gathered over a list. -/
theorem getLsbD_gather {w n : Nat} (p : Fin n → Bool) (i : Nat) (hi : i < w) (l : List (Fin n)) (m : BitVec w) :
    (l.foldl (fun m a => if p a then m ||| (1#w <<< a.val) else m) m).getLsbD i =
      (m.getLsbD i || l.any fun a => p a && a.val == i) := by
  induction l generalizing m with
  | nil => simp
  | cons a l ih =>
    rw [List.foldl_cons, ih, List.any_cons, ← Bool.or_assoc]
    congr 1
    cases p a with
    | false => simp
    | true =>
      have hb : (1#w <<< a.val).getLsbD i = (a.val == i) := by
        rw [BitVec.getLsbD_shiftLeft, BitVec.getLsbD_one]
        by_cases h : a.val = i
        · simp [h, hi]; omega
        · simp only [beq_eq_false_iff_ne.2 h]
          by_cases k : i < a.val
          · simp [k]
          · simp [show i - a.val ≠ 0 by omega]
      simp [hb]

theorem activeInputs_bit (s : State) (l : Fin 32) : s.activeInputs.getLsbD l =
    if h : l.val < 12 then (s.line ⟨l, h⟩).filtered else false := by
  unfold State.activeInputs
  rw [getLsbD_gather (fun l => (s.line l).filtered) l.val l.isLt]
  split
  next h =>
    have hm : (⟨l.val, h⟩ : Line) ∈ allLines := by
      generalize (⟨l.val, h⟩ : Line) = k
      revert k; decide
    rw [Bool.eq_iff_iff]
    simp only [BitVec.ofNat_eq_ofNat, BitVec.getLsbD_zero, Bool.false_or, List.any_eq_true, Bool.and_eq_true,
      beq_iff_eq]
    constructor
    · rintro ⟨k, _, hk, e⟩
      rwa [show (⟨l.val, h⟩ : Line) = k from Fin.ext e.symm]
    · exact fun hk => ⟨_, hm, hk, rfl⟩
  next h =>
    simp only [BitVec.ofNat_eq_ofNat, BitVec.getLsbD_zero, Bool.false_or, List.any_eq_false, Bool.and_eq_true,
      beq_iff_eq]
    intro k _ e
    have := k.isLt
    omega

theorem mem_stopAllSet (s : State) (l : Line) : l ∈ s.stopAllSet ↔
    (∃ k, (s.line l).stopAll = some k) ∧ (s.line l).filtered = true := by
  have hm : l ∈ allLines := by revert l; decide
  rw [State.stopAllSet, List.mem_filter, Bool.and_eq_true, Option.isSome_iff_exists]
  exact and_iff_right hm

theorem stopLineActive_iff (s : State) : s.stopLineActive = true ↔
    ∃ (l : Line) (k : StopKind), (s.line l).stopAll = some k ∧ (s.line l).filtered = true := by
  rw [State.stopLineActive, Bool.not_eq_true', List.isEmpty_eq_false_iff_exists_mem]
  simp only [mem_stopAllSet, exists_and_right]

theorem sequenceWord_append (q : Seq) : sequenceWord q =
    0#8 ++ reasonCode q.reason ++ q.sq.subCode ++ q.sq.code := by
  refine (bytes_append q.sq.code q.sq.subCode (reasonCode q.reason)).trans ?_
  generalize reasonCode q.reason = c
  generalize q.sq.subCode = b
  generalize q.sq.code = a
  refine BitVec.eq_of_getLsbD_eq fun i hi => ?_
  have h1 := BitVec.getLsbD_append (x := (0#8 : Byte)) (y := (c ++ (b ++ a) : BitVec 24)) (i := i)
  have h2 := BitVec.getLsbD_append (x := c) (y := (b ++ a : BitVec 16)) (i := i)
  have h3 := BitVec.getLsbD_append (x := b) (y := a) (i := i)
  have k1 := BitVec.getLsbD_append (x := ((0#8 : Byte) ++ c ++ b : BitVec 24)) (y := a) (i := i)
  have k2 := BitVec.getLsbD_append (x := ((0#8 : Byte) ++ c : BitVec 16)) (y := b) (i := i - 8)
  have k3 := BitVec.getLsbD_append (x := (0#8 : Byte)) (y := c) (i := i - 8 - 8)
  refine h1.trans (Eq.trans ?_ k1.symm)
  rw [h2, h3, k2, k3]
  by_cases l1 : i < 8
  · simp [l1, show i < 16 by omega, show i < 24 by omega]
  · by_cases l2 : i < 16
    · simp [l1, l2, show i < 24 by omega, show i - 8 < 8 by omega]
    · by_cases l3 : i < 24
      · simp [l1, l2, l3, show ¬ i - 8 < 8 by omega, show i - 8 - 8 = i - 16 by omega, show i - 16 < 8 by omega]
      · simp [l1, l3, show ¬ i - 8 < 8 by omega, show ¬ i - 8 - 8 < 8 by omega]

theorem blockWord_append (q : Seq) : blockWord q = 0#28 ++ (BitVec.ofBool q.posPos ++ BitVec.ofBool q.linePos ++
    BitVec.ofBool q.posNeg ++ BitVec.ofBool q.lineNeg) := by
  unfold blockWord
  cases q.posPos <;> cases q.linePos <;> cases q.posNeg <;> cases q.lineNeg <;> rfl

theorem feedbackByte_append (t e : Bool) :
    flagByte t ||| (flagByte e <<< 1) = 0#6 ++ (BitVec.ofBool e ++ BitVec.ofBool t) := by
  cases t <;> cases e <;> rfl

/-- Settles O42. -/
theorem queriesAnswerTheState : Obligations.QueriesAnswerTheState := by
  refine ⟨fun s => ⟨mem_stopAllSet s, ?_, stopLineActive_iff s⟩, fun s r ht hf => ⟨fun hk hz => ?_, fun a hk ha hz => ?_⟩⟩
  · exact List.Nodup.filter _ (by decide)
  · refine ⟨s.activeInputs, activeInputs_bit s, ?_⟩
    exact withArgs_ends (f := fun _ s => (s, s.queryLines)) (y := ()) ⟨ht, hk⟩ (by decide) (accept_eq _ _ _ hf hz) rfl
  · intro q ends
    have paged {p : Page} (h : codePage (byteAt r 5) = some p) : argQueryAxis r = some (a, p) := by
      simp only [argQueryAxis, codeBelow_val ha, h]
      exact accept_eq _ _ _ hf hz
    have done {p : Page} {z : Answer} (h : codePage (byteAt r 5) = some p) (e : s.takeCtl.queryAxis a p = z) :
        ends z := by
      change s.ctlEvent 6 r (withArgs (argQueryAxis r) fun x s => (s, s.queryAxis x.1 x.2)) = _
      rw [withArgs_some ⟨ht, hk⟩ (by decide) (paged h), e]
    refine ⟨fun h => done (p := .motion) (by rw [h]; rfl) rfl, fun h => done (p := .sequence) (by rw [h]; rfl) ?_,
      fun h => done (p := .feedback) (by rw [h]; rfl) ?_, fun h => done (p := .home) (by rw [h]; rfl) rfl, fun h => ?_⟩
    · change Answer.ok _ (sequenceWord q) (blockWord q) = _
      rw [sequenceWord_append, blockWord_append]
      rfl
    · change Answer.ok (flagByte (s.fbm a).tripped ||| (flagByte (s.fbm a).enaDropped <<< 1)) _ _ = _
      rw [feedbackByte_append]
      rfl
    · refine withArgs_none ⟨ht, hk⟩ (by decide) ?_
      simp only [argQueryAxis, codeBelow_val ha, codePage_none h]

end Sys2Proof.Proofs

/-! The commands of the CTL ring, second part (chapter 8): the take of a record over all sixteen rows, the
configuration of axes and lines, the commanded position, the BARRIER and RESUME. -/

namespace Sys2Proof.Proofs

open Sys2Proof.Machine Sys2Proof.Safety Sys2Proof.Laws

/-! ### The arguments that no row passes -/

/-- What the common tests of a row shut out: flags beyond NOTIFY, a byte that the kind does not list, and a
number at offset 4 beyond its codes. -/
def BadArgs (r : Record) (last top : Nat) : Prop :=
  1 < (byteAt r 1).toNat ∨ zeroBytes r last 32 = false ∨ top ≤ (byteAt r 4).toNat

section
variable {r : Record} {α : Type}

theorem accept_bad {last top : Nat} {ok : Bool} {x : α} (h : BadArgs r last top) (ht : (byteAt r 4).toNat < top) :
    accept r last ok x = none :=
  accept_none (h.imp_right fun k => k.resolve_right (Nat.not_le.2 ht))

theorem argConfigAxis_bad (h : BadArgs r 32 4) : argConfigAxis r = none := by
  unfold argConfigAxis
  split
  next ha _ _ _ => exact accept_bad h (codeBelow_ne_none.1 (by simp [ha]))
  next => rfl

theorem argConfigLine_bad (h : BadArgs r 10 12) : argConfigLine r = none := by
  unfold argConfigLine
  split
  next ha _ _ _ => exact accept_bad h (codeBelow_ne_none.1 (by simp [ha]))
  next => rfl

theorem argSetPosition_bad (h : BadArgs r 12 4) : argSetPosition r = none := by
  unfold argSetPosition
  split
  next ha => exact accept_bad h (codeBelow_ne_none.1 (by simp [ha]))
  next => rfl

theorem codeSet_lt {b : Byte} {m : BitVec 4} (h : codeSet b = some m) : b.toNat < 16 := by
  by_contra n
  rw [codeSet_none (Nat.le_of_not_lt n)] at h
  cases h

theorem argSetOutputs_bad (h : BadArgs r 6 16) : argSetOutputs r = none := by
  unfold argSetOutputs
  split
  next ha _ => exact accept_bad h (codeSet_lt ha)
  next => rfl

theorem argBarrier_bad (h : BadArgs r 5 16) : argBarrier r = none := by
  unfold argBarrier
  split
  next ha => exact accept_bad h (codeSet_lt ha)
  next => rfl

theorem argQueryAxis_bad (h : BadArgs r 6 4) : argQueryAxis r = none := by
  unfold argQueryAxis
  split
  next ha _ => exact accept_bad h (codeBelow_ne_none.1 (by simp [ha]))
  next => rfl

theorem argQueryLines_bad (h : BadArgs r 4 256) : argQueryLines r = none :=
  accept_bad h (byteAt r 4).isLt

theorem argWriteBank_bad (h : BadArgs r 24 8) : argWriteBank r = none := by
  unfold argWriteBank
  split
  next ha => exact accept_bad h (codeBelow_ne_none.1 (by simp [ha]))
  next => rfl

theorem argPostSignal_bad (h : BadArgs r 6 16) : argPostSignal r = none := by
  unfold argPostSignal
  split
  next ha => exact accept_bad h (codeBelow_ne_none.1 (by simp [ha]))
  next => rfl

theorem argClearSignal_bad (h : BadArgs r 5 16) : argClearSignal r = none := by
  unfold argClearSignal
  split
  next ha => exact accept_bad h (codeBelow_ne_none.1 (by simp [ha]))
  next => rfl

theorem argOpenRendezvous_bad (h : BadArgs r 6 8) : argOpenRendezvous r = none := by
  unfold argOpenRendezvous
  split
  next ha _ => exact accept_bad h (codeBelow_ne_none.1 (by simp [ha]))
  next => rfl

theorem argCloseRendezvous_bad (h : BadArgs r 5 8) : argCloseRendezvous r = none := by
  unfold argCloseRendezvous
  split
  next ha => exact accept_bad h (codeBelow_ne_none.1 (by simp [ha]))
  next => rfl

theorem argHalt_bad (h : BadArgs r 6 4) : argHalt r = none := by
  unfold argHalt
  split
  next ha _ => exact accept_bad h (codeBelow_ne_none.1 (by simp [ha]))
  next => rfl

theorem argResume_bad (h : BadArgs r 6 4) : argResume r = none := by
  unfold argResume
  split
  next ha _ => exact accept_bad h (codeBelow_ne_none.1 (by simp [ha]))
  next => rfl

theorem argArmCapture_bad (h : BadArgs r 9 4) : argArmCapture r = none := by
  unfold argArmCapture
  split
  next ha _ _ _ _ => exact accept_bad h (codeBelow_ne_none.1 (by simp [ha]))
  next => rfl

theorem argDisarmCapture_bad (h : BadArgs r 5 4) : argDisarmCapture r = none := by
  unfold argDisarmCapture
  split
  next ha => exact accept_bad h (codeBelow_ne_none.1 (by simp [ha]))
  next => rfl

end

/-! ### The rows -/

/-- What a record runs that fails a test of R138. -/
def runBadField (r : Record) (s : State) : State := s.runCommand r fun s => (s, .bare .badField)

/-- The command `c` takes a record of kind code `k`, and answers BAD_FIELD where its common tests fail. -/
def TakenAs (r : Record) (c : Instr) (k : Byte) (last top : Nat) : Prop :=
  ∃ run : State → State, (∀ s, exec c s = s.event fun s => s.takeRecord k r run) ∧
    (BadArgs r last top → run = runBadField r)

section
variable {r : Record} {c : Instr} {k : Byte} {last top : Nat} {s : State}

theorem takenAs_withArgs {α : Type} {x : Option α} {f : α → State → State × Answer}
    (e : ∀ s, exec c s = s.ctlEvent k r (withArgs x f)) (h : BadArgs r last top → x = none) :
    TakenAs r c k last top :=
  ⟨fun s => s.runCommand r (withArgs x f), e, fun b => by rw [h b]; rfl⟩

theorem takenAs_barrier (r : Record) : TakenAs r (.barrier r) 5 5 16 := by
  cases hx : argBarrier r with
  | none =>
    refine ⟨runBadField r, fun s => ?_, fun _ => rfl⟩
    change execBarrier r s = _
    unfold execBarrier
    rw [hx]
    rfl
  | some m =>
    refine ⟨fun s => s.runBarrier r m, fun s => ?_, fun b => ?_⟩
    · change execBarrier r s = _
      unfold execBarrier
      rw [hx]
    · rw [argBarrier_bad b] at hx; cases hx

/-- Every row of the table takes its kind. -/
theorem rows_takenAs (r : Record) :
    ∀ p ∈ (ctlRows r).zipIdx, TakenAs r p.1.1 (BitVec.ofNat 8 (p.2 + 1)) p.1.2.1 p.1.2.2 := by
  simp only [ctlRows, List.zipIdx_cons, List.zipIdx_nil, List.forall_mem_cons, List.not_mem_nil, false_imp_iff,
    implies_true, and_true]
  exact ⟨takenAs_withArgs (fun _ => rfl) argConfigAxis_bad, takenAs_withArgs (fun _ => rfl) argConfigLine_bad,
    takenAs_withArgs (fun _ => rfl) argSetPosition_bad, takenAs_withArgs (fun _ => rfl) argSetOutputs_bad,
    takenAs_barrier r, takenAs_withArgs (fun _ => rfl) argQueryAxis_bad,
    takenAs_withArgs (fun _ => rfl) argQueryLines_bad, takenAs_withArgs (fun _ => rfl) argWriteBank_bad,
    takenAs_withArgs (fun _ => rfl) argPostSignal_bad, takenAs_withArgs (fun _ => rfl) argClearSignal_bad,
    takenAs_withArgs (fun _ => rfl) argOpenRendezvous_bad, takenAs_withArgs (fun _ => rfl) argCloseRendezvous_bad,
    takenAs_withArgs (fun _ => rfl) argHalt_bad, takenAs_withArgs (fun _ => rfl) argResume_bad,
    takenAs_withArgs (fun _ => rfl) argArmCapture_bad, takenAs_withArgs (fun _ => rfl) argDisarmCapture_bad⟩

theorem takenAs_of_row {i : Nat} (h : (ctlRows r)[i]? = some (c, last, top)) :
    TakenAs r c (BitVec.ofNat 8 (i + 1)) last top ∧ i < 16 :=
  ⟨rows_takenAs r ((c, last, top), i) (List.mem_zipIdx_iff_getElem?.2 h), (List.getElem?_eq_some_iff.1 h).1⟩

theorem takenAs_of_command (h : c ∈ ctlCommands r) : ∃ k last top, TakenAs r c k last top := by
  obtain ⟨⟨c, last, top⟩, hp, rfl⟩ := List.mem_map.1 h
  obtain ⟨i, hi⟩ := List.mem_iff_getElem?.1 hp
  exact ⟨_, last, top, (takenAs_of_row hi).1⟩

/-- Where no record can be taken, nothing happens. -/
theorem event_not_takes {f : State → Option State} (hf : s.ctlReady = false → f s = none) (h : ¬ takes s) :
    s.event f = .next s := by
  cases hr : s.resetHeld with
  | true => exact event_held s hr
  | false => exact event_none s (hf (Bool.eq_false_iff.2 fun k => h ⟨hr, k⟩))

theorem takenAs_not_takes (h : TakenAs r c k last top) (ht : ¬ takes s) : exec c s = .next s := by
  obtain ⟨run, he, -⟩ := h
  rw [he]
  exact event_not_takes (fun k => by simp [State.takeRecord, k]) ht

theorem takenAs_unnamed (h : TakenAs r c k last top) (ht : takes s) (hn : namesCommand r = false) :
    exec c s = .next (commandEnd s s.takeCtl r ⟨.badCommand, 0, 0, 0⟩) := by
  obtain ⟨run, he, -⟩ := h
  rw [he, event_some s ht.1 (takeRecord_unnamed s k run ht.2 hn)]
  rfl

theorem takenAs_other (h : TakenAs r c k last top) (hn : namesCommand r = true) (hk : kindByte r ≠ k) :
    exec c s = .next s := by
  obtain ⟨run, he, -⟩ := h
  rw [he]
  exact event_none s (takeRecord_other s run hk hn)

theorem takenAs_bad (h : TakenAs r c k last top) (ht : takes s) (hn : namesCommand r = true) (hk : kindByte r = k)
    (hb : BadArgs r last top) : exec c s = .next (commandEnd s s.takeCtl r ⟨.badField, 0, 0, 0⟩) := by
  obtain ⟨run, he, hr⟩ := h
  rw [he, event_some s ht.1 (takeRecord_own s run ht.2 hk hn), hr hb]
  rfl

end

theorem exec_unknown (r : Record) (s : State) : exec (.unknownCommandKind r) s =
    s.event fun s => if s.ctlReady && !namesCommand r then some (s.badCommand r) else none := rfl

theorem kindByte_eq_iff (r : Record) {i : Nat} (h : i < 16) :
    kindByte r = BitVec.ofNat 8 (i + 1) ↔ (byteAt r 0).toNat = i + 1 := by
  rw [← BitVec.toNat_inj, BitVec.toNat_ofNat, Nat.mod_eq_of_lt (by omega)]
  rfl

/-- The record at the consumer index has been passed, and nothing else changes. -/
theorem takeCtl_ring (s : State) : s.takeCtl.ring ctl = { (s.ring ctl) with fetch := .idle }.pass 1 := by
  simp [State.takeCtl]

/-- A report that is due changes nothing else of a ring. -/
theorem dueReport_eq (x : Ring) : ∃ p, x.dueReport = { x with report := p } := by
  unfold Ring.dueReport
  split
  · exact ⟨_, rfl⟩
  · exact ⟨_, rfl⟩

theorem pass_one_fields (x : Ring) : (x.pass 1).cons = (x.cons + 1) % x.size ∧ (x.pass 1).seqNo = x.seqNo + 1 ∧
    (x.pass 1).fetch = x.fetch := by
  obtain ⟨p, hp⟩ := dueReport_eq { x with cons := (x.cons + 1) % x.size, seqNo := x.seqNo + 1 }
  have e : x.pass 1 = { x with cons := (x.cons + 1) % x.size, seqNo := x.seqNo + 1 }.dueReport := rfl
  rw [e, hp]
  exact ⟨rfl, rfl, rfl⟩

theorem fill_reserved {s : State} {h : Holder} (c : Completion) (hh : h ∈ s.queue.reserved) : s.fill h c =
    { s with queue := { s.queue with reserved := s.queue.reserved.erase h, filled := s.queue.filled ++ [c] } } :=
  if_pos hh

/-- Settles O35: over the sixteen rows by the take that they share. -/
theorem commandsAreTakenAndDone : Obligations.CommandsAreTakenAndDone := by
  refine ⟨fun s r => ?_, fun s seq tag notify x h => ?_⟩
  · intro named
    have hnamed : namesCommand r = true ↔ named := namesCommand_iff
    have unnamed : ¬ named → namesCommand r = false := fun n => Bool.eq_false_iff.2 (mt hnamed.1 n)
    refine ⟨fun c hc ht => ?_, fun ht => ⟨fun c hc hn => ?_, fun hn => ?_, fun i c last top hi => ⟨fun hn hk => ?_, fun hk hb => ?_⟩⟩,
      ?_, ?_, ?_, rfl⟩
    · rcases List.mem_cons.1 hc with rfl | hc
      · rw [exec_unknown]
        exact event_not_takes (fun k => by simp [k]) ht
      · obtain ⟨k, last, top, hx⟩ := takenAs_of_command hc
        exact takenAs_not_takes hx ht
    · rcases List.mem_cons.1 hc with rfl | hc
      · rw [exec_unknown, event_some s ht.1 (if_pos (by rw [ht.2, unnamed hn]; rfl))]
        rfl
      · obtain ⟨k, last, top, hx⟩ := takenAs_of_command hc
        exact takenAs_unnamed hx ht (unnamed hn)
    · rw [exec_unknown]
      exact event_none s (if_neg (by rw [hnamed.2 hn]; simp))
    · obtain ⟨hx, h16⟩ := takenAs_of_row hi
      exact takenAs_other hx (hnamed.2 hn) (mt (kindByte_eq_iff r h16).1 hk)
    · obtain ⟨hx, h16⟩ := takenAs_of_row hi
      exact takenAs_bad hx ht (hnamed.2 (by unfold named; omega)) ((kindByte_eq_iff r h16).2 hk) hb
    · rw [takeCtl_ring, (pass_one_fields _).1]
    · rw [takeCtl_ring, (pass_one_fields _).2.1]
    · rw [takeCtl_ring, (pass_one_fields _).2.2]
  · unfold State.endCommand
    rw [fill_reserved _ h]
    rfl

end Sys2Proof.Proofs

/-! The configuration of an axis: the arguments of CONFIG_AXIS at their offsets, and its judgement by state
(R140 to R142). -/

namespace Sys2Proof.Proofs

open Sys2Proof.Machine Sys2Proof.Safety Sys2Proof.Laws

section
variable {r : Record} {a : Axis} {c : AxisConfig}

theorem codeOptLine_eq_some {b : Byte} {o : Option Line} :
    codeOptLine b = some o ↔ b.toNat = (o.map fun l => l.val + 1).getD 0 := by
  unfold codeOptLine
  by_cases hb : b = 0
  · subst hb
    cases o with
    | none => simp
    | some l => simp
  · have hn : b.toNat ≠ 0 := mt (byte_eq_zero_iff b).2 hb
    have hs : (b - 1).toNat = b.toNat - 1 := by
      have := b.isLt
      rw [BitVec.toNat_sub]
      simp only [BitVec.ofNat_eq_ofNat, BitVec.toNat_ofNat]
      omega
    rw [if_neg (by simpa using hb), Option.map_eq_some_iff]
    cases o with
    | none => simp [hn]
    | some l =>
      simp only [Option.some.injEq, exists_eq_right, codeBelow_eq_some, Option.map_some, Option.getD_some]
      omega

theorem eq_hardIf_iff {k : StopKind} {b : Bool} : k = hardIf b ↔ (k = .hard ↔ b = true) := by
  cases k <;> cases b <;> simp [hardIf]

theorem within_iff (lo hi n : Nat) : within lo hi n = true ↔ lo ≤ n ∧ n ≤ hi := by simp [within]

/-- The tolerance stands in the three bytes from offset 9. -/
theorem tolerance_eq (r : Record) :
    (r.extractLsb' 72 24).toNat = (byteAt r 9).toNat + 256 * (halfAt r 10).toNat := by
  have h80 : r.toNat / 2 ^ 80 = r.toNat / 2 ^ 72 / 2 ^ 8 := by rw [Nat.div_div_eq_div_mul]; rfl
  simp only [byteAt, halfAt, BitVec.extractLsb'_toNat, Nat.shiftRight_eq_div_pow, Nat.reduceMul, h80]
  omega

/-- The items that stand in a record, its lines being read. -/
def itemsAt (r : Record) (neg pos home : Option Line) : AxisConfig :=
  let o := byteAt r 5
  { enabled := o.getLsbD 0, limitNeg := neg, limitPos := pos, homeLine := home
    limitAction := hardIf (o.getLsbD 1), softLimits := o.getLsbD 2
    lo := (wordAt r 12).toInt, hi := (wordAt r 16).toInt
    stopDecel := (wordAt r 20).toNat, vmax := (wordAt r 24).toNat
    faultAction := hardIf (o.getLsbD 3)
    encNum := (halfAt r 28).toNat, encDen := (halfAt r 30).toNat
    tolerance := (r.extractLsb' 72 24).toNat, disableOnFault := o.getLsbD 4 }

/-- The ranges of R140. -/
def itemsOk (r : Record) (c : AxisConfig) : Bool :=
  (byteAt r 5).toNat < 32 && c.tolerance ≤ 1000000 && (!c.softLimits || c.lo < c.hi)
    && within 1 8000000 c.stopDecel && within 1 1000000 c.vmax
    && within 1 65535 c.encNum && within 1 65535 c.encDen

theorem itemsOk_iff : itemsOk r c = true ↔ (byteAt r 5).toNat < 32 ∧ c.tolerance ≤ 1000000 ∧
    (c.softLimits = true → c.lo < c.hi) ∧ (1 ≤ c.stopDecel ∧ c.stopDecel ≤ 8000000) ∧
    (1 ≤ c.vmax ∧ c.vmax ≤ 1000000) ∧ (1 ≤ c.encNum ∧ c.encNum ≤ 65535) ∧ 1 ≤ c.encDen ∧ c.encDen ≤ 65535 := by
  have hs : (!c.softLimits || decide (c.lo < c.hi)) = true ↔ (c.softLimits = true → c.lo < c.hi) := by
    cases c.softLimits <;> simp
  simp only [itemsOk, Bool.and_eq_true, within_iff, hs, decide_eq_true_eq, and_assoc]

theorem argConfigAxis_eq_some : argConfigAxis r = some (a, c) ↔ codeBelow 4 (byteAt r 4) = some a ∧
    codeOptLine (byteAt r 6) = some c.limitNeg ∧ codeOptLine (byteAt r 7) = some c.limitPos ∧
    codeOptLine (byteAt r 8) = some c.homeLine ∧ (byteAt r 1).toNat ≤ 1 ∧ itemsOk r c = true ∧
    itemsAt r c.limitNeg c.limitPos c.homeLine = c := by
  have hz : zeroBytes r 32 32 = true := beq_iff_eq.2 (Subsingleton.elim (α := BitVec 0) _ _)
  constructor
  · intro h
    unfold argConfigAxis at h
    split at h
    next b neg pos home h4 h6 h7 h8 =>
      obtain ⟨hf, -, hok, he⟩ := accept_some.1 h
      obtain ⟨rfl, rfl⟩ := Prod.mk.inj he
      exact ⟨h4, h6, h7, h8, hf, hok, rfl⟩
    next => cases h
  · rintro ⟨h4, h6, h7, h8, hf, hok, he⟩
    unfold argConfigAxis
    rw [h4, h6, h7, h8]
    refine accept_some.2 ⟨hf, hz, ?_, congrArg (Prod.mk a) he⟩
    change itemsOk r (itemsAt r c.limitNeg c.limitPos c.homeLine) = true
    rw [he]
    exact hok

/-- The items, one by one. -/
theorem itemsAt_eq_iff : itemsAt r c.limitNeg c.limitPos c.homeLine = c ↔
    c.enabled = (byteAt r 5).getLsbD 0 ∧ c.limitAction = hardIf ((byteAt r 5).getLsbD 1) ∧
    c.softLimits = (byteAt r 5).getLsbD 2 ∧ c.faultAction = hardIf ((byteAt r 5).getLsbD 3) ∧
    c.disableOnFault = (byteAt r 5).getLsbD 4 ∧ c.tolerance = (r.extractLsb' 72 24).toNat ∧
    c.lo = (wordAt r 12).toInt ∧ c.hi = (wordAt r 16).toInt ∧ c.stopDecel = (wordAt r 20).toNat ∧
    c.vmax = (wordAt r 24).toNat ∧ c.encNum = (halfAt r 28).toNat ∧ c.encDen = (halfAt r 30).toNat := by
  constructor
  · intro h
    rw [← h]
    exact ⟨rfl, rfl, rfl, rfl, rfl, rfl, rfl, rfl, rfl, rfl, rfl, rfl⟩
  · obtain ⟨⟩ := c
    rintro ⟨h1, h2, h3, h4, h5, h6, h7, h8, h9, h10, h11, h12⟩
    simp only at h1 h2 h3 h4 h5 h6 h7 h8 h9 h10 h11 h12
    subst h1 h2 h3 h4 h5 h6 h7 h8 h9 h10 h11 h12
    rfl

end

/-! ### The judgement by state -/

theorem settled_iff (s : State) (a : Axis) : s.settled a = true ↔
    (s.seq a).sq = .off ∨ (s.seq a).sq = .halted ∨ ((s.seq a).sq = .empty ∧ (s.mg a).motion = .still) := by
  unfold State.settled
  split
  next h => simp [h]
  next h => simp [h]
  next h => simp [h, isStill_iff]
  next h1 h2 h3 =>
    refine iff_of_false (by simp) ?_
    rintro (h | h | h)
    · exact h1 h
    · exact h2 h
    · exact h3 h.1

section
variable {s : State} {a : Axis} {c : AxisConfig}

theorem configAxis_busy (h : s.settled a = false) : configAxis (a, c) s = (s, ⟨.axisBusy, s.sqByte a, 0, 0⟩) :=
  if_pos (by simp [h])

theorem configAxis_draining (hd : s.dev = .drain) (hq : (s.seq a).sq = .off) (he : c.enabled = true) :
    configAxis (a, c) s = (s, ⟨.draining, s.sqByte a, 0, 0⟩) := by
  have h : s.settled a = true := (settled_iff s a).2 (.inl hq)
  unfold configAxis
  simp [h, hd, hq, he]

theorem configAxis_enabled (h : s.settled a = true) (hd : ¬ (s.dev = .drain ∧ (s.seq a).sq = .off))
    (he : c.enabled = true) : configAxis (a, c) s = s.configEnabled a c := by
  unfold configAxis
  simp only [h, he, Bool.not_true, Bool.false_eq_true, if_false, if_true]
  refine if_neg ?_
  simpa using hd

theorem configAxis_disabled (h : s.settled a = true) (he : c.enabled = false) :
    configAxis (a, c) s = s.configDisabled a c := by
  unfold configAxis
  simp [h, he]

end

/-- Settles O36: the arguments through the items that stand in the record, the judgement by the state. -/
theorem configAxisIsJudgedByState : Obligations.ConfigAxisIsJudgedByState := by
  refine ⟨fun r a c => ?_, fun s r h hx => withArgs_none h (by decide) hx, fun s r a c h hx => ?_⟩
  · rw [argConfigAxis_eq_some, itemsOk_iff, itemsAt_eq_iff]
    simp only [codeBelow_eq_some, codeOptLine_eq_some, eq_hardIf_iff, tolerance_eq]
    have h28 := (halfAt r 28).isLt
    have h30 := (halfAt r 30).isLt
    constructor
    · rintro ⟨h4, h6, h7, h8, hf, ⟨h5, ht, hs, hd, hv, hn, hm⟩, e0, e1, e2, e3, e4, et, el, eh, es, ev, en, em⟩
      exact ⟨hf, h4.symm, h5, e0, e1, e2, e3, e4, h6, h7, h8, et, ht, el, eh, hs, es, hd.1, hd.2, ev, hv.1, hv.2,
        en, hn.1, em, hm.1⟩
    · rintro ⟨hf, h4, h5, e0, e1, e2, e3, e4, h6, h7, h8, et, ht, el, eh, hs, es, hd1, hd2, ev, hv1, hv2, en, hn, em, hm⟩
      exact ⟨h4.symm, h6, h7, h8, hf, ⟨h5, ht, hs, ⟨hd1, hd2⟩, ⟨hv1, hv2⟩, ⟨hn, by omega⟩, hm, by omega⟩,
        e0, e1, e2, e3, e4, et, el, eh, es, ev, en, em⟩
  · intro q settled u
    have hset : u.settled a = true ↔ settled := settled_iff u a
    have ends {t : State} {x : Answer} (e : configAxis (a, c) u = (t, x)) :
        exec (.configAxis r) s = .next (commandEnd s t r x) :=
      withArgs_ends (f := configAxis) h (by decide) hx e
    refine ⟨fun hn => ends (configAxis_busy (Bool.eq_false_iff.2 (mt hset.1 hn))), fun hd hq he => ?_,
      fun hs hd he => ends (configAxis_enabled (hset.2 hs) hd he), fun hs he => ends (configAxis_disabled (hset.2 hs) he)⟩
    have hb : u.sqByte a = 0 := by
      change q.code = 0
      rw [hq]; rfl
    have := ends (configAxis_draining (s := u) hd hq he)
    rwa [hb] at this

end Sys2Proof.Proofs

/-! The configuration of a line and the commanded position (R130, R143, R145), with the watchers that a
position serves (R29, R30, R71). -/

namespace Sys2Proof.Proofs

open Sys2Proof.Machine Sys2Proof.Safety Sys2Proof.Laws

/-! ### CONFIG_LINE -/

section
variable {r : Record}

/-- The items that a legal CONFIG_LINE carries. -/
def lineItems (r : Record) (l : Line) : LineArgs :=
  ⟨l, byteAt r 5 == 1, (halfAt r 6).toNat,
    if byteAt r 8 = 1 then some (if byteAt r 9 = 1 then .hard else .soft) else none⟩

/-- The ranges of R143. -/
def lineLegal (r : Record) : Prop := (byteAt r 5).toNat ≤ 1 ∧ (byteAt r 8).toNat ≤ 1 ∧ (byteAt r 9).toNat ≤ 1 ∧
  (halfAt r 6).toNat ≤ 1023 ∧ (byteAt r 8 = 0 → byteAt r 9 = 0)

/-- A stop kind without the role must be zero. -/
theorem role_or_soft (h8 : (byteAt r 8).toNat ≤ 1) (h9 : (byteAt r 9).toNat ≤ 1) :
    (decide (byteAt r 8 = 1) || (if byteAt r 9 = 1 then StopKind.hard else .soft) == .soft) = true ↔
      (byteAt r 8 = 0 → byteAt r 9 = 0) := by
  have one (b : Byte) (h : b.toNat ≤ 1) : b = 0 ∨ b = 1 := by
    rcases Nat.le_one_iff_eq_zero_or_eq_one.1 h with h | h
    · exact .inl (BitVec.eq_of_toNat_eq h)
    · exact .inr (BitVec.eq_of_toNat_eq h)
  rcases one _ h8 with e8 | e8 <;> rcases one _ h9 with e9 | e9 <;> simp [e8, e9]

theorem argConfigLine_legal {l : Line} (hf : (byteAt r 1).toNat ≤ 1) (h4 : (byteAt r 4).toNat = l.val)
    (hz : zeroBytes r 10 32 = true) (h : lineLegal r) : argConfigLine r = some (lineItems r l) := by
  obtain ⟨h5, h8, h9, h6, hr⟩ := h
  unfold argConfigLine
  rw [codeBelow_val h4, codeFlag_some h5, codeFlag_some h8, codeKind_some h9]
  refine (accept_eq _ _ _ hf hz).trans ((if_pos ?_).trans ?_)
  · rw [Bool.and_eq_true, decide_eq_true_eq]
    exact ⟨h6, (role_or_soft h8 h9).2 hr⟩
  · unfold lineItems
    by_cases e : byteAt r 8 = 1 <;> simp only [e] <;> rfl

theorem argConfigLine_illegal {l : Line} (hf : (byteAt r 1).toNat ≤ 1) (h4 : (byteAt r 4).toNat = l.val)
    (hz : zeroBytes r 10 32 = true) (h : ¬ lineLegal r) : argConfigLine r = none := by
  unfold argConfigLine
  rw [codeBelow_val h4]
  by_cases h5 : (byteAt r 5).toNat ≤ 1
  · by_cases h8 : (byteAt r 8).toNat ≤ 1
    · by_cases h9 : (byteAt r 9).toNat ≤ 1
      · rw [codeFlag_some h5, codeFlag_some h8, codeKind_some h9]
        refine (accept_eq _ _ _ hf hz).trans (if_neg ?_)
        rw [Bool.and_eq_true, decide_eq_true_eq, role_or_soft h8 h9]
        exact fun k => h ⟨h5, h8, h9, k.1, k.2⟩
      · rw [codeKind_none (Nat.lt_of_not_le h9)]
        cases codeFlag (byteAt r 5) <;> cases codeFlag (byteAt r 8) <;> rfl
    · rw [codeFlag_none (Nat.lt_of_not_le h8)]
      cases codeFlag (byteAt r 5) <;> rfl
  · rw [codeFlag_none (Nat.lt_of_not_le h5)]

end

/-- The request of a stop-all role, where the line has one. -/
def stopRequest (v : State) (o : Option StopKind) : State :=
  match o with
  | some k => v.stopAllRequest k
  | none => v

section
variable (s : State) (l : Line) (x : LineArgs)

theorem line_limitLevel (act : Bool) (k : Line) : (s.limitLevel l act).line k = s.line k :=
  (does_limitLevel s l act).line k

/-- The state that CONFIG_LINE leaves where the limit roles have taken the level. -/
theorem stopRole_configured {v : State} {after before : LineState} (h : v.line l = after) :
    v.stopRole l (stopActs before after) =
      if after.filtered = true ∧ (before.stopAll = none ∨ before.filtered = false) then
        stopRequest v after.stopAll else v := by
  have hs : stopActs before after = true ↔
      after.filtered = true ∧ (before.stopAll = none ∨ before.filtered = false) := by
    simp [stopActs]
  unfold State.stopRole
  rw [h]
  by_cases hc : stopActs before after = true
  · rw [hc, if_pos (hs.1 hc)]
    cases after.stopAll <;> rfl
  · rw [if_neg (mt hs.2 hc)]
    cases after.stopAll with
    | none => rfl
    | some k => exact if_neg hc

end

/-- Settles O38: the tests of the arguments, then the limit roles before the stop-all role. -/
theorem configLineTakesTheLevel : Obligations.ConfigLineTakesTheLevel := by
  intro s r l ht hf h4 hz f low stop legal x anew y u v t
  have hlegal : lineLegal r ↔ legal := Iff.rfl
  refine ⟨fun h => ?_, fun h => withArgs_none ht (by decide) (argConfigLine_illegal hf h4 hz h)⟩
  refine withArgs_ends (f := configLine) ht (by decide) (argConfigLine_legal hf h4 hz h) ?_
  have hy : (s.line l).configure (lineItems r l) = y := rfl
  have hu : (s.takeCtl.modLine l fun _ => y).line l = y := by rw [line_modLine, if_pos rfl]
  have hv : v = if (x.filtered != y.filtered) = true then u.limitLevel l y.filtered else u := by
    by_cases e : x.filtered = y.filtered
    · exact (if_pos e).trans (if_neg fun k => bne_iff_ne.1 k e).symm
    · exact (if_neg e).trans (if_pos (bne_iff_ne.2 e)).symm
  have hvl : v.line l = y := by
    rw [hv]
    split
    · rw [line_limitLevel]; exact hu
    · exact hu
  have hstop : y.stopAll = stop := by
    change (if anew then _ else _ : LineState).stopAll = _
    split <;> rfl
  have heff : v.stopRole l (stopActs x y) = t := by
    rw [stopRole_configured l hvl, hstop]
    exact if_congr Iff.rfl (by cases stop <;> rfl) rfl
  have e : configLine (lineItems r l) s.takeCtl =
      ((if (x.filtered != y.filtered) = true then u.limitLevel l y.filtered else u).stopRole l (stopActs x y),
        .ok (flagByte anew) (flagWord x.filtered) (flagWord y.filtered)) := rfl
  rw [e, ← hv, heff]
  rfl

/-! ### The watchers that a position serves -/

/-- The watcher of axis `b` at the MG of axis `w` has its test met. -/
def watcherMet (s : State) (w b : Axis) : Bool :=
  match (s.mg w).watchers.get b with
  | some x => x.holds (s.mg w).pos
  | none => false

section
variable (s : State) (a b w : Axis)

theorem serveWatcher_met (h : watcherMet s w b = true) :
    s.serveWatcher w b = (s.setWatcher w b none).meet b := by
  unfold watcherMet at h
  unfold State.serveWatcher
  split
  next x hx => rw [hx] at h; exact if_pos h
  next hx => rw [hx] at h; cases h

theorem serveWatcher_unmet (h : watcherMet s w b = false) : s.serveWatcher w b = s := by
  unfold watcherMet at h
  unfold State.serveWatcher
  split
  next x hx => rw [hx] at h; exact if_neg (by simp [h])
  next => rfl

/-- What the service of one watcher leaves. -/
theorem serveWatcher_leaves : ∃ v c, s.serveWatcher w b = { s with axes := v, claims := c } := by
  cases h : watcherMet s w b with
  | true =>
    obtain ⟨v, c, e⟩ := meet_eq (s.setWatcher w b none) b
    exact ⟨v, c, by rw [serveWatcher_met s b w h, e]; rfl⟩
  | false => exact ⟨s.axes, s.claims, serveWatcher_unmet s b w h⟩

theorem mg_serveWatcher : (s.serveWatcher w b).mg a = if watcherMet s w b = true ∧ a = w then
    { s.mg a with watchers := setAt (s.mg a).watchers b none } else s.mg a := by
  cases h : watcherMet s w b with
  | true =>
    rw [serveWatcher_met s b w h, mg_meet, mg_setWatcher]
    simp only [true_and]
  | false =>
    rw [serveWatcher_unmet s b w h]
    simp

theorem seq_meet : (s.meet b).seq a = if a = b ∧ (s.seq b).sq = .wait .cond then
    { (s.seq b).setHead (.pending .waitStart) with sq := .wait .place } else s.seq a := by
  by_cases hq : (s.seq b).sq = .wait .cond
  · rw [meet_waiting s b hq, seq_claimStart]
    simp only [hq, and_true]
  · rw [meet_other s b hq, if_neg (fun k => hq k.2)]

theorem claims_meet : (s.meet b).claims =
    s.claims ++ if (s.seq b).sq = .wait .cond then [Claim.axis b] else [] := by
  by_cases hq : (s.seq b).sq = .wait .cond
  · rw [meet_waiting s b hq, if_pos hq]; rfl
  · rw [meet_other s b hq, if_neg hq, List.append_nil]

theorem fbm_meet : (s.meet b).fbm a = s.fbm a := by
  unfold State.meet
  split
  · change ((s.setProgress b .waitStart).setSq b (.wait .place)).fbm a = _
    rw [fbm_setSq, State.setProgress, fbm_modSeq]
  · rfl

theorem seq_serveWatcher : (s.serveWatcher w b).seq a =
    if watcherMet s w b = true ∧ a = b ∧ (s.seq b).sq = .wait .cond then
      { (s.seq b).setHead (.pending .waitStart) with sq := .wait .place } else s.seq a := by
  cases h : watcherMet s w b with
  | true =>
    have e (c : Axis) : (s.setWatcher w b none).seq c = s.seq c := seq_modMg ..
    rw [serveWatcher_met s b w h, seq_meet, e, e]
    simp only [true_and]
  | false =>
    rw [serveWatcher_unmet s b w h]
    simp

theorem claims_serveWatcher : (s.serveWatcher w b).claims = s.claims ++
    if watcherMet s w b && (s.seq b).sq == .wait .cond then [Claim.axis b] else [] := by
  cases h : watcherMet s w b with
  | true =>
    have e (c : Axis) : (s.setWatcher w b none).seq c = s.seq c := seq_modMg ..
    rw [serveWatcher_met s b w h, claims_meet, e]
    simp only [Bool.true_and, beq_iff_eq]
    rfl
  | false =>
    rw [serveWatcher_unmet s b w h]
    simp

theorem fbm_serveWatcher : (s.serveWatcher w b).fbm a = s.fbm a := by
  cases h : watcherMet s w b with
  | true => rw [serveWatcher_met s b w h, fbm_meet]; exact fbm_modMg ..
  | false => rw [serveWatcher_unmet s b w h]

/-- The service of one watcher decides nothing about another. -/
theorem watcherMet_serveWatcher {a b : Axis} (h : a ≠ b) : watcherMet (s.serveWatcher w b) w a = watcherMet s w a := by
  have hm := mg_serveWatcher s w b w
  have hp : ((s.serveWatcher w b).mg w).pos = (s.mg w).pos := by rw [hm]; split <;> rfl
  have hw : ((s.serveWatcher w b).mg w).watchers.get a = (s.mg w).watchers.get a := by
    rw [hm]
    split
    · simp only [setAt_get, if_neg h]
    · rfl
  unfold watcherMet
  rw [hp, hw]

theorem sq_serveWatcher {a b : Axis} (h : a ≠ b) : (s.serveWatcher w b).seq a = s.seq a := by
  rw [seq_serveWatcher, if_neg (fun k => h k.2.1)]

end

/-- The state of the head entry is of the window alone. -/
theorem setHead_eq (q : Seq) (x : EntryState) : ∃ l, q.setHead x = { q with window := l } := by
  unfold Seq.setHead
  split
  · exact ⟨_, rfl⟩
  · exact ⟨_, rfl⟩

/-- What the service of some watchers of a position leaves: their axes claim in the order of the list. -/
structure WatchersServed (s : State) (w : Axis) (l : List Axis) (t : State) : Prop where
  watcher : ∀ b, (t.mg w).watchers.get b = if b ∈ l ∧ watcherMet s w b = true then none else (s.mg w).watchers.get b
  mg : ∀ a, ∃ v, t.mg a = { s.mg a with watchers := v }
  seq : ∀ b, t.seq b = if b ∈ l ∧ watcherMet s w b = true ∧ (s.seq b).sq = .wait .cond then
    { (s.seq b).setHead (.pending .waitStart) with sq := .wait .place } else s.seq b
  claims : t.claims = s.claims ++ (l.filter fun b => watcherMet s w b && (s.seq b).sq == .wait .cond).map Claim.axis
  fbm : ∀ a, t.fbm a = s.fbm a
  rest : { t with axes := s.axes, claims := s.claims } = s

theorem WatchersServed.outs {s t : State} {w : Axis} {l : List Axis} (h : WatchersServed s w l t) :
    t.outs = s.outs := by
  rw [← h.rest]

theorem WatchersServed.queue {s t : State} {w : Axis} {l : List Axis} (h : WatchersServed s w l t) :
    t.queue = s.queue := by
  rw [← h.rest]

theorem watchersServed_list (w : Axis) (l : List Axis) (hl : l.Nodup) :
    ∀ s : State, WatchersServed s w l (forEach l (State.serveWatcher w) s) := by
  induction l with
  | nil =>
    exact fun s => ⟨fun b => by simp, fun a => ⟨_, rfl⟩, fun b => by simp, by simp, fun _ => rfl, rfl⟩
  | cons x l ih =>
    intro s
    obtain ⟨hx, hl⟩ := List.nodup_cons.1 hl
    have h := ih hl (s.serveWatcher w x)
    obtain ⟨v, c, hv⟩ := serveWatcher_leaves s x w
    rw [forEach_cons]
    refine ⟨fun b => ?_, fun a => ?_, fun b => ?_, ?_, fun a => (h.fbm a).trans (fbm_serveWatcher s a x w), ?_⟩
    · rw [h.watcher b]
      by_cases hb : b = x
      · subst hb
        rw [if_neg (fun k => hx k.1), mg_serveWatcher]
        cases hm : watcherMet s w b <;> simp
      · rw [watcherMet_serveWatcher s w hb, mg_serveWatcher]
        cases hm : watcherMet s w x <;> simp [hb, setAt_get]
    · obtain ⟨y, hy⟩ := h.mg a
      rw [hy, mg_serveWatcher]
      split
      · exact ⟨_, rfl⟩
      · exact ⟨_, rfl⟩
    · rw [h.seq b]
      by_cases hb : b = x
      · subst hb
        rw [if_neg (fun k => hx k.1), seq_serveWatcher]
        simp
      · rw [watcherMet_serveWatcher s w hb, sq_serveWatcher s w hb]
        simp [hb]
    · have hp : (l.filter fun b => watcherMet (s.serveWatcher w x) w b && ((s.serveWatcher w x).seq b).sq == .wait .cond) =
          l.filter fun b => watcherMet s w b && (s.seq b).sq == .wait .cond := by
        refine List.filter_congr fun b hb => ?_
        have hne : b ≠ x := fun k => hx (k ▸ hb)
        rw [watcherMet_serveWatcher s w hne, sq_serveWatcher s w hne]
      rw [h.claims, hp, claims_serveWatcher, List.append_assoc, List.filter_cons]
      split <;> rfl
    · have := h.rest
      rw [hv] at this
      rw [hv]
      exact congrArg (fun u : State => { u with axes := s.axes, claims := s.claims }) this

theorem watchersServed (s : State) (w : Axis) : WatchersServed s w allAxes (s.serveWatchers w) :=
  watchersServed_list w allAxes (by decide) s

/-! ### SET_POSITION -/

theorem setPosition_command {s : State} {a : Axis} {p : Int} (h : s.settled a = true) : setPosition (a, p) s =
    (s.setPosition a p, ⟨.ok, s.sqByte a, word32 (s.mg a).pos, (s.fbm a).count⟩) := if_pos h

theorem setPosition_command_busy {s : State} {a : Axis} {p : Int} (h : s.settled a = false) : setPosition (a, p) s =
    (s, ⟨.axisBusy, s.sqByte a, word32 (s.mg a).pos, (s.fbm a).count⟩) := if_neg (by simp [h])

theorem argSetPosition_eq {r : Record} {a : Axis} (hf : (byteAt r 1).toNat ≤ 1) (h4 : (byteAt r 4).toNat = a.val)
    (hz : zeroBytes r 12 32 = true) :
    argSetPosition r = if zeroBytes r 5 8 then some (a, (wordAt r 8).toInt) else none := by
  simp only [argSetPosition, codeBelow_val h4]
  exact accept_eq _ _ _ hf hz

theorem beyondPos_iff (c : AxisConfig) (p : Int) :
    beyondPos c p = true ↔ (c.softLimits = true ∧ c.hi < p) ∨ p = 2147483647 := by
  simp [beyondPos, posMax]

theorem beyondNeg_iff (c : AxisConfig) (p : Int) :
    beyondNeg c p = true ↔ (c.softLimits = true ∧ p < c.lo) ∨ p = -2147483648 := by
  simp [beyondNeg, posMin]

/-- What the setting of the commanded position leaves of the axis (R73). -/
structure PositionSet (s : State) (a : Axis) (p : Int) (t : State) : Prop where
  pos : (t.mg a).pos = p
  pulses : (t.mg a).pulses = (s.mg a).pulses
  fbm : t.fbm a = { s.fbm a with
    ref := p - scaledCount (s.fbm a).count (s.cfg a).encNum (s.cfg a).encDen, tripped := false }
  cfg : t.cfg a = s.cfg a
  posNeg : (t.seq a).posNeg = beyondNeg (s.cfg a) p
  posPos : (t.seq a).posPos = beyondPos (s.cfg a) p
  lineNeg : (t.seq a).lineNeg = (s.seq a).lineNeg
  linePos : (t.seq a).linePos = (s.seq a).linePos

theorem positionSet (s : State) (a : Axis) (p : Int) : PositionSet s a p (s.setPosition a p) := by
  have hm := watchersServed (s.modMg a fun m => { m with pos := p }) a
  have hcfg : ((s.modMg a fun m => { m with pos := p }).serveWatchers a).cfg a = s.cfg a :=
    ((does_serveWatchers _ a).cfg a).trans (cfg_modMg ..)
  obtain ⟨v, hmg⟩ := hm.mg a
  rw [mg_modMg, if_pos rfl] at hmg
  have hfbm := hm.fbm a
  rw [fbm_modMg] at hfbm
  have hseq := hm.seq a
  rw [seq_modMg] at hseq
  have e : s.setPosition a p =
    (((s.modMg a fun m => { m with pos := p }).serveWatchers a).rebase a).recomputePosBlocks a := rfl
  rw [e]
  generalize (s.modMg a fun m => { m with pos := p }).serveWatchers a = u at *
  refine ⟨?_, ?_, ?_, ?_, ?_, ?_, ?_, ?_⟩ <;>
    simp only [State.recomputePosBlocks, State.rebase, mg_modSeq, mg_modFbm, fbm_modSeq, fbm_modFbm, cfg_modSeq,
      cfg_modFbm, seq_modSeq, seq_modFbm, if_true, hmg, hfbm, hcfg]
  · rw [hseq]
    split
    · obtain ⟨x, hx⟩ := setHead_eq (s.seq a) (.pending .waitStart)
      rw [hx]
    · rfl
  · rw [hseq]
    split
    · obtain ⟨x, hx⟩ := setHead_eq (s.seq a) (.pending .waitStart)
      rw [hx]
    · rfl

/-- Settles O39. -/
theorem setPositionWhereSettled : Obligations.SetPositionWhereSettled := by
  refine ⟨fun c p => ⟨beyondPos_iff c p, beyondNeg_iff c p⟩, fun s r a ht hf h4 hz => ?_, fun s w => ?_⟩
  · intro p q settled x t
    have harg := argSetPosition_eq hf h4 hz
    have hset : s.takeCtl.settled a = true ↔ settled := settled_iff s.takeCtl a
    have hp : PositionSet s.takeCtl a p t := positionSet s.takeCtl a p
    refine ⟨fun h5 hs => ?_, fun h5 hs => ?_, fun h5 => ?_, rfl, hp.pos, hp.pulses, ?_, by rw [hp.fbm],
      by rw [hp.fbm]; rfl, by rw [hp.fbm]; rfl, hp.posNeg, hp.posPos, hp.lineNeg, hp.linePos⟩
    · exact withArgs_ends (f := setPosition) ht (by decide) (harg.trans (if_pos h5))
        (setPosition_command (hset.2 hs))
    · exact withArgs_ends (f := setPosition) ht (by decide) (harg.trans (if_pos h5))
        (setPosition_command_busy (Bool.eq_false_iff.2 (mt hset.1 hs)))
    · exact withArgs_none ht (by decide) (harg.trans (if_neg (by simp [h5])))
    · unfold State.deviation
      rw [hp.pos, hp.fbm, hp.cfg]
      simp
  · intro p met t
    have h := watchersServed s w
    have hmet (b : Axis) : watcherMet s w b = met b := by
      change (match (s.mg w).watchers.get b with | some x => x.holds p | none => false) =
        match (s.mg w).watchers.get b with
        | some x => if x.up then decide (x.threshold ≤ p) else decide (p ≤ x.threshold)
        | none => false
      cases (s.mg w).watchers.get b <;> rfl
    have hall (b : Axis) : b ∈ allAxes := mem_allAxes b
    refine ⟨fun b => ?_, fun b => ?_, ?_, ?_, ?_, ?_⟩
    · rw [h.watcher b, hmet b]
      simp [hall]
    · rw [h.seq b, hmet b]
      simp only [hall, true_and]
      split <;> rfl
    · rw [h.claims]
      simp only [hmet]
    · obtain ⟨v, hv⟩ := h.mg w
      rw [hv]
    · exact h.outs
    · exact h.queue

end Sys2Proof.Proofs

/-! The BARRIER (R146, R147, R150) and RESUME (R106 to R108). -/

namespace Sys2Proof.Proofs

open Sys2Proof.Machine Sys2Proof.Safety Sys2Proof.Laws

/-! ### Sets of axes -/

theorem axisSet_bit (p : Axis → Bool) (a : Axis) : (axisSet p).getLsbD a = p a := by
  unfold axisSet axisBit
  rw [getLsbD_gather p a.val a.isLt]
  fin_cases a <;> simp [allAxes]

/-- The first axis of a set that passes a test. -/
theorem allAxes_find {p : Axis → Bool} {a : Axis} (ha : p a = true) (hb : ∀ c, c < a → p c = false) :
    allAxes.find? p = some a := by
  fin_cases a
  · simp [allAxes, show p 0 = true from ha]
  · simp [allAxes, show p 1 = true from ha, hb 0 (by decide)]
  · simp [allAxes, show p 2 = true from ha, hb 0 (by decide), hb 1 (by decide)]
  · simp [allAxes, show p 3 = true from ha, hb 0 (by decide), hb 1 (by decide), hb 2 (by decide)]

theorem members_find {m : BitVec 4} {p : Axis → Bool} {a : Axis} (ha : inSet a m = true ∧ p a = true)
    (hb : ∀ c, c < a → ¬ (inSet c m = true ∧ p c = true)) : (members m).find? p = some a := by
  rw [members, List.find?_filter]
  refine allAxes_find (by simpa using ha) fun c hc => ?_
  simpa using hb c hc

theorem members_find_none {m : BitVec 4} {p : Axis → Bool} (hb : ∀ c, ¬ (inSet c m = true ∧ p c = true)) :
    (members m).find? p = none := by
  refine List.find?_eq_none.2 fun c hc hp => hb c ⟨(mem_members m c).1 hc, hp⟩

theorem members_all {m : BitVec 4} {p : Axis → Bool} :
    (members m).all p = true ↔ ∀ c : Axis, m.getLsbD c = true → p c = true := by
  rw [List.all_eq_true]
  exact forall_congr' fun c => imp_congr (mem_members m c) Iff.rfl

/-! ### The BARRIER at its execution -/

section
variable (s : State) (a : Axis) (b : BarrierRec)

theorem isHalted_iff : s.isHalted a = true ↔ (s.seq a).sq = .halting ∨ (s.seq a).sq = .halted := by
  simp [State.isHalted]

theorem barrierSatisfied_iff : s.barrierSatisfied b a = true ↔ (s.seq a).sq = .off ∨ ((s.seq a).sq = .empty ∧
    ((s.mg a).motion = .still ∨ (s.mg a).motion = .hold) ∧ b.counts.get a = 0) := by
  unfold State.barrierSatisfied
  split
  next h => simp [h]
  next h => simp [h]
  next h1 h2 =>
    refine iff_of_false (by simp) ?_
    rintro (h | h)
    · exact h1 h
    · exact h2 h.1

theorem ring_takeCtl : s.takeCtl.ring (axisRing a) = s.ring (axisRing a) := by
  have h : axisRing a ≠ ctl := by revert a; decide
  rw [State.takeCtl, ring_modRing, if_neg h]

theorem inFlight_takeCtl : s.takeCtl.inFlight a = s.inFlight a := by
  unfold State.inFlight
  rw [ring_takeCtl]

theorem barrierRec_skip (r : Record) (q : BitVec 16) (m : BitVec 4) :
    (s.barrierRec r q m).skip.get a = decide ((s.ring (axisRing a)).fetch = .inFlight) := by
  simp only [State.barrierRec, Vector.get_ofFn, State.inFlight]
  by_cases h : (s.ring (axisRing a)).fetch = .inFlight <;> simp [h]

theorem barrierRec_counts (r : Record) (q : BitVec 16) {m : BitVec 4} (h : m.getLsbD a = true) :
    (s.barrierRec r q m).counts.get a = s.countedRecords a := by
  simp only [State.barrierRec, Vector.get_ofFn]
  exact if_pos h

end

section
variable {s : State} {b : BarrierRec}

theorem barrierEnd_drain (h : s.dev = .drain) : s.barrierEnd b = some (.draining, 0xFF) := if_pos h

theorem barrierEnd_halted {a : Axis} (hd : s.dev ≠ .drain) (h : (members b.axes).find? s.isHalted = some a) :
    s.barrierEnd b = some (.barrierHalted, ringByte a) := by
  unfold State.barrierEnd
  rw [if_neg hd, h]

theorem barrierEnd_clear (hd : s.dev ≠ .drain) (h : (members b.axes).find? s.isHalted = none) :
    s.barrierEnd b = if (members b.axes).all (s.barrierSatisfied b) then some (.ok, 0xFF) else none := by
  unfold State.barrierEnd
  rw [if_neg hd, h]

/-- A BARRIER whose record passes its tests. -/
theorem exec_barrier_taken {r : Record} (ht : takesKind s r 5) (hf : (byteAt r 1).toNat ≤ 1) (h4 : (byteAt r 4).toNat ≤ 15)
    (hz : zeroBytes r 5 32 = true) :
    exec (.barrier r) s = .next (s.runBarrier r ((byteAt r 4).setWidth 4)).finish := by
  have harg : argBarrier r = some ((byteAt r 4).setWidth 4) := by
    simp only [argBarrier, codeSet_some h4]
    exact accept_eq _ _ _ hf hz
  change execBarrier r s = _
  unfold execBarrier
  rw [harg]
  exact event_some s ht.1.1 (takeRecord_own s _ ht.1.2 ht.2 (names_of_takesKind ht (by decide)))

theorem runBarrier_ends {r : Record} {m : BitVec 4} {st : CmdStatus} {y : Byte}
    (h : s.takeCtl.barrierEnd (s.takeCtl.barrierRec r (s.ring ctl).seqNo m) = some (st, y)) : s.runBarrier r m =
      s.takeCtl.endBarrier (s.takeCtl.barrierRec r (s.ring ctl).seqNo m) st y := by
  unfold State.runBarrier
  simp only [h]

theorem runBarrier_waits {r : Record} {m : BitVec 4}
    (h : s.takeCtl.barrierEnd (s.takeCtl.barrierRec r (s.ring ctl).seqNo m) = none) : s.runBarrier r m =
      { s.takeCtl with cte := .barrier (s.takeCtl.barrierRec r (s.ring ctl).seqNo m) } := by
  unfold State.runBarrier
  simp only [h]

end

/-! ### A waiting BARRIER -/

section
variable {s : State} {b : BarrierRec} (h : s.cte = .barrier b)
include h

theorem judgeBarrier_waiting : s.judgeBarrier =
    if (members b.axes).all (s.barrierSatisfied b) then s.endBarrier b .ok 0xFF else s := by
  unfold State.judgeBarrier
  rw [h]

theorem barrierHalt_waiting (a : Axis) (r : HaltReason) : s.barrierHalt a r =
    if inSet a b.axes && r != .drain then s.endBarrier b .barrierHalted (ringByte a) else s := by
  unfold State.barrierHalt
  rw [h]

theorem barrierPass_waiting (a : Axis) : s.barrierPass a =
    let b' := if b.skip.get a then { b with skip := setAt b.skip a false }
      else { b with counts := setAt b.counts a (b.counts.get a - 1) }
    { s with cte := .barrier b' } := by
  unfold State.barrierPass
  rw [h]

end

section
variable {s : State} (h : ∀ b, s.cte ≠ .barrier b)
include h

theorem judgeBarrier_idle : s.judgeBarrier = s := by
  unfold State.judgeBarrier
  split
  next b hb => exact absurd hb (h b)
  next => rfl

theorem barrierHalt_idle (a : Axis) (r : HaltReason) : s.barrierHalt a r = s := by
  unfold State.barrierHalt
  split
  next b hb => exact absurd hb (h b)
  next => rfl

theorem barrierPass_idle (a : Axis) : s.barrierPass a = s := by
  unfold State.barrierPass
  split
  next b hb => exact absurd hb (h b)
  next => rfl

end

/-- Settles O41: the execution by its cases, then the events of a waiting BARRIER. -/
theorem barrierEndsOrWaits : Obligations.BarrierEndsOrWaits := by
  refine ⟨fun s r ht hf h4 hz => ?_, fun s b hb => ?_,
    fun s a r h => ⟨judgeBarrier_idle h, barrierHalt_idle h a r, barrierPass_idle h a⟩⟩
  · intro m u b stopped done
    have run := exec_barrier_taken ht hf h4 hz
    have hstop (a : Axis) : stopped a ↔ inSet a b.axes = true ∧ u.isHalted a = true :=
      and_congr Iff.rfl (isHalted_iff u a).symm
    have hall : (members b.axes).all (u.barrierSatisfied b) = true ↔ ∀ a, done a :=
      members_all.trans (forall_congr' fun a => imp_congr Iff.rfl (barrierSatisfied_iff u a b))
    have clear (hn : ∀ a, ¬ stopped a) : (members b.axes).find? u.isHalted = none :=
      members_find_none fun c hc => hn c ((hstop c).2 hc)
    have ends {st : CmdStatus} {y : Byte} (e : u.barrierEnd b = some (st, y)) :
        exec (.barrier r) s = .next (u.endBarrier b st y).finish := by
      rw [run, runBarrier_ends e]
    refine ⟨fun hd => ends (barrierEnd_drain hd), fun a hd ha hc => ?_, fun hd hn hs => ?_, fun hd hn hs => ?_,
      rfl, rfl, rfl, rfl, fun a => ⟨?_, fun ha => ?_⟩⟩
    · exact ends (barrierEnd_halted hd (members_find ((hstop a).1 ha) fun c hlt k => hc c hlt ((hstop c).2 k)))
    · exact ends ((barrierEnd_clear hd (clear hn)).trans (if_pos (hall.2 hs)))
    · rw [run, runBarrier_waits ((barrierEnd_clear hd (clear hn)).trans (if_neg (mt hall.1 hs)))]
    · rw [barrierRec_skip, ring_takeCtl]
    · rw [barrierRec_counts _ _ _ _ ha, State.countedRecords, ring_takeCtl, inFlight_takeCtl]
      rfl
  · intro done
    have hall : (members b.axes).all (s.barrierSatisfied b) = true ↔ ∀ a : Axis, b.axes.getLsbD a = true → done a :=
      members_all.trans (forall_congr' fun a => imp_congr Iff.rfl (barrierSatisfied_iff s a b))
    refine ⟨fun h => (judgeBarrier_waiting hb).trans (if_pos (hall.2 h)),
      fun h => (judgeBarrier_waiting hb).trans (if_neg (mt hall.1 h)), fun a r ha hr => ?_, fun a r h => ?_,
      fun a => ⟨_, barrierPass_waiting hb a, ?_⟩, fun st byte => ⟨_, _, fun a => ?_, fun a => ?_, rfl⟩⟩
    · refine (barrierHalt_waiting hb a r).trans (if_pos ?_)
      rw [Bool.and_eq_true, bne_iff_ne]
      exact ⟨ha, hr⟩
    · refine (barrierHalt_waiting hb a r).trans (if_neg ?_)
      rw [Bool.and_eq_true, bne_iff_ne]
      rintro ⟨k1, k2⟩
      exact h.elim (fun e => Bool.false_ne_true (e.symm.trans k1)) k2
    · cases hs : b.skip.get a with
      | true => simp +contextual [setAt_get]
      | false => simp +contextual [setAt_get, hs]
    · rw [axisSet_bit, Bool.and_eq_true, Bool.not_eq_true', ← Bool.not_eq_true]
      exact and_congr Iff.rfl (not_congr (barrierSatisfied_iff s a b))
    · rw [axisSet_bit, Bool.and_eq_true]
      exact and_congr Iff.rfl (isHalted_iff s a)

/-! ### RESUME -/

theorem argResume_eq {r : Record} {a : Axis} (hf : (byteAt r 1).toNat ≤ 1) (h4 : (byteAt r 4).toNat = a.val)
    (hz : zeroBytes r 6 32 = true) (h5 : (byteAt r 5).toNat ≤ 1) :
    argResume r = some (a, decide (byteAt r 5 = 1)) := by
  simp only [argResume, codeBelow_val h4, codeFlag_some h5]
  exact accept_eq _ _ _ hf hz

section
variable {s : State} {a : Axis}

theorem resume_draining (m : Bool) (hd : s.dev = .drain) :
    resume (a, m) s = (s, ⟨.draining, reasonCode (s.seq a).reason, 0, 0⟩) := if_pos hd

theorem resume_notHalted (m : Bool) (hd : s.dev ≠ .drain) (hq : (s.seq a).sq ≠ .halted) :
    resume (a, m) s = (s, ⟨.notHalted, 0, 0, 0⟩) := (if_neg hd).trans (if_pos hq)

theorem resume_lineActive (m : Bool) (hd : s.dev ≠ .drain) (hq : (s.seq a).sq = .halted)
    (hl : s.stopLineActive = true) : resume (a, m) s = (s, ⟨.lineActive, reasonCode (s.seq a).reason, 0, 0⟩) :=
  (if_neg hd).trans ((if_neg (not_not.2 hq)).trans (if_pos hl))

theorem resume_taken (m : Bool) (hd : s.dev ≠ .drain) (hq : (s.seq a).sq = .halted) (hl : s.stopLineActive = false) :
    resume (a, m) s = s.resumed a m := by
  unfold resume
  simp only [hd, hq, hl, if_false, ne_eq, not_true_eq_false, Bool.false_eq_true]

theorem resumed_flush : s.resumed a true =
    ((((s.resumeAxis a).discard a ((s.resumeAxis a).ring (axisRing a)).available).1.setSq a .empty).serve.testDeviation a,
      .ok (reasonCode (s.seq a).reason)
        (BitVec.ofNat 32 ((s.resumeAxis a).discard a ((s.resumeAxis a).ring (axisRing a)).available).2.2)
        (((s.resumeAxis a).discard a ((s.resumeAxis a).ring (axisRing a)).available).2.1.setWidth 32)) := by
  unfold State.resumed
  rw [if_pos rfl]
  rfl

theorem window_resumeAxis : ((s.resumeAxis a).seq a).window = (s.seq a).window := by
  rw [State.resumeAxis, seq_modFbm, seq_modSeq, if_pos rfl]

theorem resumed_keep_empty (h : (s.seq a).window = []) : s.resumed a false =
    (((s.resumeAxis a).setSq a .empty).serve.testDeviation a, .ok (reasonCode (s.seq a).reason) 0 0) := by
  have e : (s.resumeAxis a).resumeKeep a = (s.resumeAxis a).setSq a .empty :=
    if_pos (by rw [window_resumeAxis, h]; rfl)
  unfold State.resumed
  rw [if_neg Bool.false_ne_true, e, h]
  rfl

theorem resumed_keep_window (h : (s.seq a).window ≠ []) : s.resumed a false =
    (((s.resumeAxis a).arm a).serve.testDeviation a,
      .ok (reasonCode (s.seq a).reason) (BitVec.ofNat 32 (s.seq a).window.length) 0) := by
  have e : (s.resumeAxis a).resumeKeep a = (s.resumeAxis a).arm a :=
    if_neg (by rw [window_resumeAxis, List.isEmpty_iff]; exact h)
  unfold State.resumed
  rw [if_neg Bool.false_ne_true, e]
  rfl

end

/-- Settles O49: the refusals in their order, then both modes. -/
theorem resumeKeepsOrFlushes : Obligations.ResumeKeepsOrFlushes := by
  intro s r a ht hf h4 hz q byte ends u p
  refine ⟨fun h5 => withArgs_none ht (by decide) ?_, fun h5 => ?_⟩
  · simp only [argResume, codeBelow_val h4, codeFlag_none h5]
  · have harg := argResume_eq hf h4 hz h5
    have done {t : State} {x : Answer} (e : resume (a, decide (byteAt r 5 = 1)) s.takeCtl = (t, x)) : ends t x :=
      withArgs_ends (f := resume) ht (by decide) harg e
    refine ⟨fun hd => done (resume_draining (s := s.takeCtl) _ hd), fun hd hq => done (resume_notHalted (s := s.takeCtl) _ hd hq),
      fun hd hq hl => done (resume_lineActive (s := s.takeCtl) _ hd hq hl), fun hd hq hl => ⟨fun hm hw => ?_, fun hm hw => ?_, fun hm => ?_⟩⟩
    · refine done ((resume_taken (s := s.takeCtl) _ hd hq hl).trans ?_)
      rw [hm]
      exact resumed_keep_empty (s := s.takeCtl) hw
    · refine done ((resume_taken (s := s.takeCtl) _ hd hq hl).trans ?_)
      rw [hm]
      exact resumed_keep_window (s := s.takeCtl) hw
    · refine done ((resume_taken (s := s.takeCtl) _ hd hq hl).trans ?_)
      rw [hm]
      exact resumed_flush (s := s.takeCtl)

end Sys2Proof.Proofs

/-! The checks of arming, the candidate and its rejection (R12 to R20). -/

namespace Sys2Proof.Proofs

open Sys2Proof.Machine Sys2Proof.Safety Sys2Proof.Laws

/-! ### The checks as a table -/

section
variable (s : State) (a : Axis) (w : Work) (b : SegBody)

/-- A HOME on an axis without a home line (check 1b). -/
def lineless : Bool :=
  match w with
  | .home _ _ _ _ => (s.cfg a).homeLine.isNone
  | _ => false

/-- A MOVE_REL out of the range of positions (check 1c). -/
def outside : Bool :=
  match w with
  | .moveRel d _ => decide ((s.mg a).pos + d < posMin) || decide (posMax < (s.mg a).pos + d)
  | _ => false

/-- The bank of a kind that uses one has not been written (check 2). -/
def bankless : Bool :=
  match b.work with
  | .dwell _ | .mark => false
  | _ => !(s.bank b.bank).written

/-- The target of a MOVE lies beyond a soft bound (check 4). -/
def beyond : Bool :=
  match Work.target w (s.mg a).pos with
  | some t => (s.cfg a).softLimits && (decide (t < (s.cfg a).lo) || decide ((s.cfg a).hi < t))
  | none => false

/-- A side of the segment is blocked (check 5). -/
def shut : Bool := (s.sidesToward a w).any (s.seq a).blocked

theorem orElse_ite {α : Type} (c : Prop) [Decidable c] (x : α) (y : Option α) :
    ((if c then some x else none) <|> y) = if c then some x else y := by
  split <;> rfl

theorem checkRange_eq : s.checkRange a w = if outside s a w then some .positionRange else none := by
  cases w with
  | moveRel d v =>
    have h : inRange ((s.mg a).pos + d) = !outside s a (.moveRel d v) := by
      rw [Bool.eq_iff_iff]
      simp [inRange, outside]
    simp only [State.checkRange, h]
    cases outside s a (.moveRel d v) <;> rfl
  | _ => rfl

theorem checkSoftLimit_eq : s.checkSoftLimit a w = if beyond s a w then some .softLimitTarget else none := by
  unfold State.checkSoftLimit beyond
  cases Work.target w (s.mg a).pos <;> rfl

theorem checkBank_eq : (if Work.usesBank b.work && !(s.bank b.bank).written then some RejectReason.bankEmpty else none) =
    if bankless s b then some .bankEmpty else none := by
  unfold bankless
  cases b.work <;> simp [Work.usesBank]

theorem repeatChecks_eq : s.repeatChecks a w = if outside s a w then some .positionRange
    else if beyond s a w then some .softLimitTarget else if shut s a w then some .directionBlocked else none := by
  unfold State.repeatChecks
  rw [checkRange_eq, checkSoftLimit_eq, orElse_ite, orElse_ite]
  rfl

variable {b}

theorem armChecks_bad {g : Segment} (h : g.body = none) : s.armChecks a g = some .badField := by
  unfold State.armChecks
  rw [h]

/-- The checks of arming in their order. -/
theorem armChecks_eq {g : Segment} (h : g.body = some b) : s.armChecks a g =
    if lineless s a b.work then some .noHomeLine else if outside s a b.work then some .positionRange
    else if bankless s b then some .bankEmpty else if (s.cfg a).vmax < Work.speed b.work then some .velocityLimit
    else if beyond s a b.work then some .softLimitTarget else if shut s a b.work then some .directionBlocked
    else s.checkEntry a b.start := by
  have e : s.armChecks a g = ((if lineless s a b.work then some .noHomeLine else none)
      <|> s.checkRange a b.work
      <|> (if Work.usesBank b.work && !(s.bank b.bank).written then some .bankEmpty else none)
      <|> (if (s.cfg a).vmax < Work.speed b.work then some .velocityLimit else none)
      <|> s.checkSoftLimit a b.work <|> s.checkBlocks a b.work <|> s.checkEntry a b.start) := by
    unfold State.armChecks
    rw [h]
    rfl
  rw [e, checkRange_eq, checkSoftLimit_eq, checkBank_eq]
  simp only [State.checkBlocks, orElse_ite]
  rfl

end

/-! ### What each check says -/

section
variable {s : State} {a : Axis} {w : Work} {b : SegBody}

theorem ite_some_eq_none {α : Type} {c : Prop} [Decidable c] {x : α} {y : Option α} :
    (if c then some x else y) = none ↔ ¬ c ∧ y = none := by
  by_cases h : c <;> simp [h]

theorem lineless_iff : ¬ lineless s a w = true ↔ ∀ o v x y, w = .home o v x y → (s.cfg a).homeLine ≠ none := by
  cases w with
  | home o v x y =>
    exact ⟨fun h _ _ _ _ _ => by simpa [lineless] using h, fun h => by simpa [lineless] using h o v x y rfl⟩
  | _ => simp [lineless]

theorem outside_iff : ¬ outside s a w = true ↔
    ∀ d v, w = .moveRel d v → posMin ≤ (s.mg a).pos + d ∧ (s.mg a).pos + d ≤ posMax := by
  cases w with
  | moveRel d v => simp [outside]
  | _ => simp [outside]

theorem bankless_iff : ¬ bankless s b = true ↔
    ((∀ d, b.work ≠ .dwell d) → b.work ≠ .mark → (s.bank b.bank).written = true) := by
  unfold bankless
  cases b.work <;> simp

theorem speed_iff (vmax : Nat) : ¬ vmax < Work.speed w ↔
    (∀ v, (∃ t, w = .moveAbs t v ∨ w = .moveRel t v ∨ ∃ x y, w = .home t v x y) → v ≤ vmax) ∧
    ∀ v f, w = .run v f → v.natAbs ≤ vmax := by
  cases w <;> simp [Work.speed]

theorem beyond_iff : ¬ beyond s a w = true ↔ ((s.cfg a).softLimits = true → ∀ t, (∃ v, w = .moveAbs t v ∨
    w = .moveRel (t - (s.mg a).pos) v) → (s.cfg a).lo ≤ t ∧ t ≤ (s.cfg a).hi) := by
  cases w with
  | moveAbs t v => simp [beyond, Work.target]
  | moveRel d v =>
    simp only [beyond, Work.target, Bool.and_eq_true, Bool.or_eq_true, decide_eq_true_eq, not_and, not_or, not_lt,
      reduceCtorEq, false_or, Work.moveRel.injEq]
    refine imp_congr_right fun _ => ⟨fun h t ⟨u, ht, _⟩ => ?_, fun h => h _ ⟨v, by omega, rfl⟩⟩
    obtain rfl : (s.mg a).pos + d = t := by omega
    exact h
  | _ => simp [beyond, Work.target]

theorem shut_iff : ¬ shut s a w = true ↔ ∀ p, p ∈ s.sidesToward a w → (s.seq a).blocked p = false := by
  simp [shut]

theorem checkEntry_eq (st : Start) : s.checkEntry a st = match st with
    | .waitRendezvous e =>
      if (s.entry e).state = .closed then some .rdvClosed
      else if inSet a (s.entry e).members = false then some .rdvNotMember
      else if (s.entry e).state = .broken then some .rdvBroken else none
    | _ => none := by
  cases st with
  | waitRendezvous e =>
    unfold State.checkEntry
    simp only [Bool.not_eq_true']
  | _ => rfl

theorem checkEntry_iff (st : Start) : s.checkEntry a st = none ↔
    ∀ e, st = .waitRendezvous e → (s.entry e).state = .opened ∧ inSet a (s.entry e).members = true := by
  rw [checkEntry_eq]
  cases st with
  | waitRendezvous e =>
    simp only [ite_some_eq_none, Start.waitRendezvous.injEq, forall_eq']
    cases (s.entry e).state <;> simp
  | _ => simp

/-- All six checks hold. -/
theorem armChecks_none {g : Segment} (h : g.body = some b) : s.armChecks a g = none ↔
    ¬ lineless s a b.work = true ∧ ¬ outside s a b.work = true ∧ ¬ bankless s b = true ∧
    ¬ (s.cfg a).vmax < Work.speed b.work ∧ ¬ beyond s a b.work = true ∧ ¬ shut s a b.work = true ∧
    s.checkEntry a b.start = none := by
  rw [armChecks_eq s a h]
  simp only [ite_some_eq_none]

/-- The side from one number toward another. -/
theorem mem_sides_iff (x y : Int) (p : Bool) :
    p ∈ (if x < y then [true] else if y < x then [false] else []) ↔ if p then x < y else y < x := by
  rcases lt_trichotomy x y with h | h | h
  · cases p <;> simp [h, h.le]
  · cases p <;> simp [h]
  · cases p <;> simp [h, not_lt.2 h.le]

theorem mem_sidesToward (p : Bool) : p ∈ s.sidesToward a w ↔ match w with
    | .moveAbs t _ => if p then (s.mg a).pos < t else t < (s.mg a).pos
    | .moveRel d _ => if p then 0 < d else d < 0
    | .run v _ => if p then 0 < v else v < 0
    | .home _ _ _ negative => p = !negative ∨
      (p = negative ∧ (s.mg a).motion = .still ∧ s.levelOf (s.cfg a).homeLine = true)
    | _ => False := by
  cases w with
  | moveAbs t v => exact mem_sides_iff _ _ p
  | moveRel d v =>
    refine (mem_sides_iff _ _ p).trans ?_
    cases p
    · exact (by omega : (s.mg a).pos + d < (s.mg a).pos ↔ d < 0)
    · exact (by omega : (s.mg a).pos < (s.mg a).pos + d ↔ 0 < d)
  | run v f => exact mem_sides_iff 0 v p
  | home o v x negative =>
    simp only [State.sidesToward, Bool.and_eq_true, isStill_iff, State.homeActive]
    split_ifs with h
    · simp [h]
    · simp only [List.mem_singleton, h, and_false, or_false]
  | _ => simp [State.sidesToward, Work.target]

end

/-! ### The candidate -/

section
variable (s : State) (a : Axis) (k : Option BankNo)

theorem seq_lowerUse : (s.lowerUse k).seq a = s.seq a := by
  obtain ⟨v, hv⟩ := lowerUse_eq s k
  rw [hv]; rfl

theorem mg_lowerUse : (s.lowerUse k).mg a = s.mg a := by
  obtain ⟨v, hv⟩ := lowerUse_eq s k
  rw [hv]; rfl

end

section
variable {s : State} {a : Axis} {e : Entry}

theorem candidate_window {q : Seq} (h : q.candidate = some e) : q.window = e :: q.window.tail := by
  obtain ⟨rest, hw, -⟩ := candidate_some h
  rw [hw]; rfl

theorem window_setHead {q : Seq} (h : q.candidate = some e) (x : EntryState) :
    (q.setHead x).window = { e with state := x } :: q.window.tail := by
  obtain ⟨rest, hw, -⟩ := candidate_some h
  unfold Seq.setHead
  simp only [hw, List.tail_cons]

theorem arm_none (h : (s.seq a).candidate = none) : s.arm a = s := by
  unfold State.arm
  rw [h]

theorem arm_passes {b : SegBody} (h : (s.seq a).candidate = some e) (hc : s.armChecks a e.seg = none)
    (hb : e.seg.body = some b) : s.arm a = s.judgeStart a b.start := by
  unfold State.arm
  simp only [h, hc, hb]

theorem arm_fails {why : RejectReason} (h : (s.seq a).candidate = some e) (hc : s.armChecks a e.seg = some why) :
    s.arm a = s.claimReject a why := by
  unfold State.arm
  simp only [h, hc]

theorem seq_claimReject (why : RejectReason) (b : Axis) : (s.claimReject a why).seq b = if b = a then
    { (s.seq a).setHead (.pending (.waitReject why)) with sq := .wait .place } else s.seq b := by
  change ((s.setProgress a (.waitReject why)).setSq a (.wait .place)).seq b = _
  rw [seq_setSq, State.setProgress, seq_modSeq, seq_modSeq, if_pos rfl]
  split <;> rfl

theorem grantAxis_reject {why : RejectReason} (h : (s.seq a).candidate = some e)
    (hs : e.state = .pending (.waitReject why)) : s.grantAxis a = s.reject a why := by
  unfold State.grantAxis
  simp only [h, hs]

theorem grantAxis_start {b : SegBody} (h : (s.seq a).candidate = some e) (hs : e.state = .pending .waitStart)
    (hb : e.seg.body = some b) : s.grantAxis a = s.grantStart a b := by
  unfold State.grantAxis
  simp only [h, hs, hb]

theorem grantStart_rejects {b : SegBody} {why : RejectReason} (h : s.repeatChecks a b.work = some why) :
    s.grantStart a b = s.reject a why := by
  unfold State.grantStart
  rw [h]

/-- A rejected entry leaves the window; its record stands in the place reserved. -/
theorem rejectEntry_eq (why : RejectReason) (h : (s.seq a).candidate = some e) : s.rejectEntry a why =
    ((s.fill (.axis a) (segRejected s a e why)).removeHead a).lowerUse e.seg.bankUse := by
  unfold State.rejectEntry
  rw [h]

end

/-- Settles O52: the table of the checks, then arming, the grant and the rejection. -/
theorem armingChecksPassExactly : Obligations.ArmingChecksPassExactly := by
  refine ⟨fun s a g => ?_, fun s a g b => ?_, fun s a => ⟨arm_none, fun e he => ⟨fun hc b hb => arm_passes he hc hb, fun why hc => ?_⟩⟩,
    fun s a e b p he hb hp hk => ?_, fun s a e why he hr => ?_⟩
  · cases hb : g.body with
    | none => simp [armChecks_bad s a hb]
    | some b =>
      rw [armChecks_none hb, lineless_iff, outside_iff, bankless_iff, speed_iff, beyond_iff, shut_iff, checkEntry_iff]
      simp only [Option.some.injEq, exists_eq_left', and_assoc]
  · intro pos c target speed lineless' outside' empty beyond' shut' entry
    exact ⟨armChecks_bad s a, fun hb => (armChecks_eq s a hb).trans (by rw [checkEntry_eq]; rfl), repeatChecks_eq s a b.work,
      fun p => mem_sidesToward p⟩
  · rw [arm_fails he hc]
    refine ⟨rfl, ?_, rfl, ?_⟩
    · rw [seq_claimReject, if_pos rfl]
    · rw [seq_claimReject, if_pos rfl]
      exact window_setHead he _
  · have hs : shut s a b.work = true := by
      by_contra n
      exact absurd (shut_iff.1 n p hp) (by simp [hk])
    refine ⟨?_, fun hst => ?_⟩
    · cases hc : s.armChecks a e.seg with
      | none => exact absurd hs ((armChecks_none hb).1 hc).2.2.2.2.2.1
      | some why => exact ⟨why, arm_fails he hc⟩
    · cases hc : s.repeatChecks a b.work with
      | none =>
        rw [repeatChecks_eq] at hc
        exact absurd hs (ite_some_eq_none.1 (ite_some_eq_none.1 (ite_some_eq_none.1 hc).2).2).1
      | some why => exact ⟨why, (grantAxis_start he hst hb).trans (grantStart_rejects hc)⟩
  · intro t
    have ht : t = _ := (rejectEntry_eq why he).trans (by rw [fill_reserved _ hr])
    obtain ⟨v, hv⟩ := lowerUse_eq (({ s with queue := { s.queue with
      reserved := s.queue.reserved.erase (.axis a), filled := s.queue.filled ++ [segRejected s a e why] } } : State).removeHead a)
      e.seg.bankUse
    refine ⟨grantAxis_reject he, rfl, ?_, ?_, fun k => ?_, ?_, ?_, ?_⟩
    · rw [ht, hv]; rfl
    · rw [ht, seq_lowerUse, State.removeHead, seq_modSeq, if_pos rfl]
      rfl
    · rw [ht, uses_lowerUse]
      rfl
    · rw [ht, hv]; rfl
    · rw [ht, hv]; rfl
    · rw [ht, mg_lowerUse, State.removeHead, mg_modSeq]
      rfl

end Sys2Proof.Proofs

/-! The start conditions as they are judged at arming (R14, R25 to R31, R35, R43, R44). -/

namespace Sys2Proof.Proofs

open Sys2Proof.Machine Sys2Proof.Safety Sys2Proof.Laws

/-! ### A wait and a claim -/

/-- The axis waits in SQ_WAIT with its candidate in a progress. -/
def waitsWith (q : Seq) (p : Progress) (c : WaitCause) : Seq := { q.setHead (.pending p) with sq := .wait c }

theorem window_waitsWith {q : Seq} {e : Entry} (h : q.candidate = some e) (p : Progress) (c : WaitCause) :
    (waitsWith q p c).window = { e with state := .pending p } :: q.window.tail := window_setHead h _

/-- A second progress of the candidate takes the place of the first. -/
theorem window_waitsWith_twice {q : Seq} {e : Entry} (h : q.candidate = some e) (p p' : Progress) (c c' : WaitCause) :
    (waitsWith (waitsWith q p c) p' c').window = { e with state := .pending p' } :: q.window.tail := by
  have hw := window_waitsWith h p c
  change (Seq.setHead (waitsWith q p c) (.pending p')).window = _
  unfold Seq.setHead
  rw [hw]

section
variable (s : State) (a b : Axis)

theorem signal_claimStart (n : SignalNo) : (s.claimStart a).signal n = s.signal n := by
  obtain ⟨v, h⟩ := claimStart_eq s a
  rw [h]; rfl

theorem seq_waitCond : (s.waitCond a).seq b = if b = a then waitsWith (s.seq a) .waitCond .cond else s.seq b := by
  unfold State.waitCond
  rw [seq_setSq, State.setProgress, seq_modSeq, seq_modSeq, if_pos rfl]
  split <;> rfl

theorem seq_waitFire : (State.waitFire b s).seq a =
    if a = b ∧ (s.seq b).sq = .wait .cond then waitsWith (s.seq b) .waitStart .place else s.seq a := by
  unfold State.waitFire
  by_cases h : (s.seq b).sq = .wait .cond
  · rw [if_pos h, seq_setSq, State.setProgress, seq_modSeq, seq_modSeq, if_pos rfl]
    simp only [h, and_true]
    split <;> rfl
  · rw [if_neg h, if_neg (fun k => h k.2)]

theorem waitFire_eq : ∃ v, State.waitFire b s = { s with axes := v } := by
  unfold State.waitFire
  split
  · exact ⟨_, rfl⟩
  · exact ⟨s.axes, rfl⟩

theorem waitFires_eq (l : List Axis) : ∃ v, forEach l State.waitFire s = { s with axes := v } :=
  forEach_axes (fun b s => waitFire_eq s b) l s

end

/-- The members of a list that wait on their conditions wait on the fire. -/
theorem seq_waitFires (l : List Axis) (b : Axis) : ∀ s : State, (forEach l State.waitFire s).seq b =
    if b ∈ l ∧ (s.seq b).sq = .wait .cond then waitsWith (s.seq b) .waitStart .place else s.seq b := by
  induction l with
  | nil => intro s; simp
  | cons x l ih =>
    intro s
    rw [forEach_cons, ih, seq_waitFire]
    by_cases hx : b = x ∧ (s.seq x).sq = .wait .cond
    · obtain ⟨rfl, hq⟩ := hx
      simp only [hq, and_self, if_true, List.mem_cons, true_or]
      exact if_neg fun k => by cases k.2
    · rw [if_neg hx]
      refine if_congr ⟨fun k => ⟨List.mem_cons_of_mem _ k.1, k.2⟩, fun k => ⟨?_, k.2⟩⟩ rfl rfl
      rcases List.mem_cons.1 k.1 with h | h
      · subst h; exact absurd ⟨rfl, k.2⟩ hx
      · exact h

/-! ### The conditions -/

section
variable (s : State) (a : Axis)

theorem judgeStart_input (l : Line) (g : WaitEdge) : s.judgeStart a (.waitInput l g) =
    if g = .active ∧ (s.line l).filtered = true then s.claimStart a else s.waitCond a := by
  unfold State.judgeStart
  exact if_congr (by simp) rfl rfl

theorem judgeStart_position (w : Axis) (up : Bool) (n : Int) : s.judgeStart a (.waitPosition w up n) =
    if (if up then n ≤ (s.mg w).pos else (s.mg w).pos ≤ n) then s.claimStart a
    else (s.setWatcher w a (some ⟨up, n⟩)).waitCond a := by
  unfold State.judgeStart
  refine if_congr ?_ rfl rfl
  unfold Watcher.holds
  cases up <;> simp

/-- The candidate at the tail of a signal's list. -/
def queuedAt (n : SignalNo) : State := (s.modSignal n fun x => { x with waiters := x.waiters ++ [a] }).waitCond a

theorem signal_queuedAt (n : SignalNo) : (queuedAt s a n).signal n =
    { s.signal n with waiters := (s.signal n).waiters ++ [a] } := by
  have h := signal_modSignal s n n fun x => { x with waiters := x.waiters ++ [a] }
  rw [if_pos rfl] at h
  exact h

theorem sq_queuedAt (n : SignalNo) : ((queuedAt s a n).seq a).sq = .wait .cond := by
  rw [queuedAt, seq_waitCond, if_pos rfl]
  rfl

theorem joinSignal_eq (n : SignalNo) : s.joinSignal a n =
    if (s.signal n).waiters = [] ∧ 0 < (s.signal n).count then (queuedAt s a n).claimStart a else queuedAt s a n := by
  have hs := signal_queuedAt s a n
  have e : s.joinSignal a n = if (s.signal n).waiters.isEmpty then (queuedAt s a n).judgeHead n else queuedAt s a n := rfl
  rw [e]
  by_cases hw : (s.signal n).waiters = []
  · rw [hw] at hs
    rw [if_pos (by rw [hw]; rfl), judgeHead_cons _ _ (by rw [hs]; rfl), hs, meet_waiting _ _ (sq_queuedAt s a n)]
    simp only [hw, true_and]
  · rw [if_neg (by rw [List.isEmpty_iff]; exact hw), if_neg fun k => hw k.1]

theorem judgeStart_signal (n : SignalNo) : s.judgeStart a (.waitSignal n) =
    if (s.signal n).waiters = [] ∧ 0 < (s.signal n).count then (queuedAt s a n).claimStart a else queuedAt s a n := by
  rw [← joinSignal_eq]
  rfl

/-- The candidate has arrived at its entry. -/
def arrivedAt (e : EntryNo) : State := (s.modEntry e fun r => { r with arrived := r.arrived ||| axisBit a }).waitCond a

theorem entry_arrivedAt (e : EntryNo) : (arrivedAt s a e).entry e =
    { s.entry e with arrived := (s.entry e).arrived ||| axisBit a } := by
  have h := entry_modEntry s e e fun r => { r with arrived := r.arrived ||| axisBit a }
  rw [if_pos rfl] at h
  exact h

theorem seq_arrivedAt (e : EntryNo) (b : Axis) : (arrivedAt s a e).seq b =
    if b = a then waitsWith (s.seq a) .waitCond .cond else s.seq b :=
  seq_waitCond ..

theorem arrive_eq (e : EntryNo) : s.arrive a e =
    if (s.entry e).arrived ||| axisBit a = (s.entry e).members then
      (forEach (members (s.entry e).members) State.waitFire (arrivedAt s a e)).addClaim (.fire e)
    else arrivedAt s a e := by
  have h := entry_arrivedAt s a e
  have x : s.arrive a e = if ((arrivedAt s a e).entry e).arrived = ((arrivedAt s a e).entry e).members then
      (forEach (members ((arrivedAt s a e).entry e).members) State.waitFire (arrivedAt s a e)).addClaim (.fire e)
    else arrivedAt s a e := rfl
  rw [x, h]

theorem judgeStart_rendezvous (e : EntryNo) : s.judgeStart a (.waitRendezvous e) =
    if (s.entry e).arrived ||| axisBit a = (s.entry e).members then
      (forEach (members (s.entry e).members) State.waitFire (arrivedAt s a e)).addClaim (.fire e)
    else arrivedAt s a e := by
  rw [← arrive_eq]
  rfl

end

/-- Settles O53. -/
theorem startConditionsAreJudged : Obligations.StartConditionsAreJudged := by
  refine ⟨fun s a e he => ?_, fun s a => ⟨rfl, judgeStart_input s a, fun w up n => ?_, fun n => ?_, fun e => ?_⟩⟩
  · intro t u
    refine ⟨?_, rfl, ?_, ?_, rfl, ?_, fun b hb => ⟨?_, ?_⟩⟩
    · rw [seq_claimStart, if_pos rfl]
    · rw [seq_claimStart, if_pos rfl]
      exact window_setHead he _
    · rw [seq_waitCond, if_pos rfl]
      rfl
    · rw [seq_waitCond, if_pos rfl]
      exact window_waitsWith he _ _
    · rw [seq_claimStart, if_neg hb]
    · rw [seq_waitCond, if_neg hb]
  · exact ⟨fun h => (judgeStart_position s a w up n).trans (if_pos h),
      fun h => (judgeStart_position s a w up n).trans (if_neg h)⟩
  · intro t
    have ht : t = _ := judgeStart_signal s a n
    have hs : t.signal n = { s.signal n with waiters := (s.signal n).waiters ++ [a] } := by
      rw [ht]
      split
      · rw [signal_claimStart, signal_queuedAt]
      · rw [signal_queuedAt]
    refine ⟨by rw [hs], by rw [hs], ?_⟩
    rw [ht]
    split
    · rw [seq_claimStart, if_pos rfl]
    · exact sq_queuedAt s a n
  · intro t
    have ht : t = _ := judgeStart_rendezvous s a e
    by_cases full : (s.entry e).arrived ||| axisBit a = (s.entry e).members
    · rw [if_pos full] at ht
      obtain ⟨v, hv⟩ := waitFires_eq (arrivedAt s a e) (members (s.entry e).members)
      have hseq (b : Axis) := seq_waitFires (members (s.entry e).members) b (arrivedAt s a e)
      have tseq (b : Axis) : t.seq b = (forEach (members (s.entry e).members) State.waitFire (arrivedAt s a e)).seq b := by
        rw [ht]; rfl
      have hent : t.entry e = (arrivedAt s a e).entry e := by rw [ht, hv]; rfl
      have hclaims : t.claims = s.claims ++ [.fire e] := by rw [ht, hv]; rfl
      refine ⟨by rw [hent, entry_arrivedAt], iff_of_true full hclaims, fun n => absurd full n, fun _ b hb hw => ?_,
        fun b hb h => ?_⟩
      · have hm : b ∈ members (s.entry e).members := (mem_members _ b).2 hb
        have hq : ((arrivedAt s a e).seq b).sq = .wait .cond := by
          rw [seq_arrivedAt]
          split
          · rfl
          · exact hw.resolve_left ‹_›
        rw [tseq, hseq, if_pos ⟨hm, hq⟩]
        refine ⟨rfl, fun c hc => ?_⟩
        rw [seq_arrivedAt]
        by_cases hba : b = a
        · subst hba
          rw [if_pos rfl]
          exact window_waitsWith_twice hc _ _ _ _
        · rw [if_neg hba]
          exact window_waitsWith hc _ _
      · have ha : (arrivedAt s a e).seq b = s.seq b := by rw [seq_arrivedAt, if_neg hb]
        rw [tseq, hseq, ha, if_neg]
        rintro ⟨hm, hq⟩
        rcases h with h | h | h
        · exact Bool.false_ne_true (h.symm.trans ((mem_members _ b).1 hm))
        · exact h hq
        · exact h full
    · rw [if_neg full] at ht
      have hclaims : t.claims = s.claims := by rw [ht]; rfl
      refine ⟨by rw [ht, entry_arrivedAt], iff_of_false full ?_, fun _ => ?_, fun h => absurd h full, fun b hb _ => ?_⟩
      · rw [hclaims]
        exact fun k => by simpa using congrArg List.length k
      · rw [ht, seq_arrivedAt, if_pos rfl]
        rfl
      · rw [ht, seq_arrivedAt, if_neg hb]

end Sys2Proof.Proofs

/-! The start event of a candidate and what it hands the MG (R16 to R18, R36, R37, R63). -/

namespace Sys2Proof.Proofs

open Sys2Proof.Machine Sys2Proof.Safety Sys2Proof.Laws

/-! ### Leaving a signal's list -/

section
variable (s : State) (a : Axis) (n : SignalNo)

/-- The axis that a departure from the head of a signal's list lets claim. -/
def nextWaiter : Option Axis :=
  if (s.signal n).waiters.head? = some a ∧ 0 < (s.signal n).count then
    ((s.signal n).waiters.filter (· != a)).head?
  else none

/-- The list without the axis. -/
def unlisted : State := s.modSignal n fun x => { x with waiters := x.waiters.filter (· != a) }

theorem signal_unlisted (m : SignalNo) : (unlisted s a n).signal m =
    if m = n then { s.signal n with waiters := (s.signal n).waiters.filter (· != a) } else s.signal m :=
  signal_modSignal ..

theorem modSignal_self {f : Signal → Signal} (h : f (s.signal n) = s.signal n) : s.modSignal n f = s := by
  have e : setAt s.signals n (s.signals.get n) = s.signals := by
    refine Vector.ext fun i hi => ?_
    by_cases k : n = ⟨i, hi⟩
    · subst k; simp [setAt, Vector.get]
    · have : n.val ≠ i := fun x => k (Fin.ext x)
      simp [setAt, this]
  unfold State.modSignal
  rw [h]
  unfold State.signal
  rw [e]

theorem judgeHead_head : s.judgeHead n = match (s.signal n).waiters.head? with
    | some c => if 0 < (s.signal n).count then s.meet c else s
    | none => s := by
  unfold State.judgeHead
  cases (s.signal n).waiters <;> rfl

/-- The departure of an axis: the list without it, and behind a head the next waiter, where it waits. -/
theorem leaveList_eq : State.leaveList a n s =
    match nextWaiter s a n with
    | some c => (unlisted s a n).meet c
    | none => unlisted s a n := by
  unfold State.leaveList
  by_cases ha : a ∈ (s.signal n).waiters
  · rw [if_pos ha]
    have hs := signal_unlisted s a n n
    rw [if_pos rfl] at hs
    change (if ((s.signal n).waiters.head? == some a) = true then (unlisted s a n).judgeHead n else unlisted s a n) = _
    rw [judgeHead_head, hs]
    unfold nextWaiter
    by_cases hh : (s.signal n).waiters.head? = some a
    · rw [if_pos (beq_iff_eq.2 hh)]
      by_cases hc : 0 < (s.signal n).count
      · rw [if_pos ⟨hh, hc⟩]
        simp only [hc, if_true]
      · rw [if_neg fun k => hc k.2]
        simp only [hc, if_false]
        split <;> rfl
    · rw [if_neg fun k => hh (beq_iff_eq.1 k), if_neg fun k => hh k.1]
  · rw [if_neg ha]
    have hn : nextWaiter s a n = none := if_neg fun k => ha (List.mem_of_head? k.1)
    have hf : (s.signal n).waiters.filter (· != a) = (s.signal n).waiters :=
      List.filter_eq_self.2 fun c hc => bne_iff_ne.2 fun k => ha (k ▸ hc)
    rw [hn]
    refine (modSignal_self s n ?_).symm
    rw [hf]

theorem nextWaiter_iff (c : Axis) : nextWaiter s a n = some c ↔ (s.signal n).waiters.head? = some a ∧
    ((s.signal n).waiters.filter (· != a)).head? = some c ∧ 0 < (s.signal n).count := by
  unfold nextWaiter
  split
  next h => exact ⟨fun k => ⟨h.1, k, h.2⟩, fun k => k.2.1⟩
  next h => exact ⟨fun k => (by cases k), fun k => absurd ⟨k.1, k.2.2⟩ h⟩

theorem nextWaiter_ne {c : Axis} (h : nextWaiter s a n = some c) : c ≠ a := by
  have := List.mem_of_head? ((nextWaiter_iff s a n c).1 h).2.1
  exact bne_iff_ne.1 (List.mem_filter.1 this).2

theorem seq_leaveList (b : Axis) : (State.leaveList a n s).seq b =
    if nextWaiter s a n = some b ∧ (s.seq b).sq = .wait .cond then waitsWith (s.seq b) .waitStart .place
    else s.seq b := by
  rw [leaveList_eq]
  cases h : nextWaiter s a n with
  | none => simp; rfl
  | some c =>
    simp only [Option.some.injEq]
    rw [seq_meet]
    by_cases hb : c = b
    · subst hb; rfl
    · rw [if_neg fun k => hb k.1.symm, if_neg fun k => hb k.1]
      rfl

theorem claims_leaveList : (State.leaveList a n s).claims = s.claims ++
    match nextWaiter s a n with
    | some c => if (s.seq c).sq = .wait .cond then [Claim.axis c] else []
    | none => [] := by
  rw [leaveList_eq]
  cases h : nextWaiter s a n with
  | none => simp; rfl
  | some c => exact claims_meet _ c

theorem signal_meet (c : Axis) (m : SignalNo) : (s.meet c).signal m = s.signal m := by
  obtain ⟨v, k, h⟩ := meet_eq s c
  rw [h]; rfl

theorem signal_leaveList (m : SignalNo) : (State.leaveList a n s).signal m =
    if m = n then { s.signal n with waiters := (s.signal n).waiters.filter (· != a) } else s.signal m := by
  rw [leaveList_eq, ← signal_unlisted]
  cases nextWaiter s a n with
  | none => rfl
  | some c => exact signal_meet ..

theorem mg_leaveList (b : Axis) : (State.leaveList a n s).mg b = s.mg b := by
  rw [leaveList_eq]
  cases nextWaiter s a n with
  | none => rfl
  | some c => exact mg_meet ..

theorem leaveList_frame : ∃ v c w, State.leaveList a n s = { s with axes := v, claims := c, signals := w } := by
  rw [leaveList_eq]
  cases nextWaiter s a n with
  | none => exact ⟨s.axes, s.claims, _, rfl⟩
  | some c =>
    obtain ⟨v, k, h⟩ := meet_eq (unlisted s a n) c
    exact ⟨v, k, _, h⟩

end

/-! ### What the kinds hand to the MG -/

/-- The commanded position and the active profile are kept. -/
def Placed (m n : MG) : Prop := n.pos = m.pos ∧ n.profile = m.profile

section
variable (m : MG)

theorem placed_restart : Placed m m.restart.1 := by
  obtain ⟨⟨hp, -, hf, -, -⟩, -⟩ := restart_keeps m
  exact ⟨hp, hf⟩

theorem placed_reverse : Placed m m.reverse.1 := by
  by_cases h : m.speedSq ≤ square m.profile.vstop
  · rw [reverse_slow m h]
    exact placed_restart _
  · rw [reverse_fast m h]
    exact ⟨rfl, rfl⟩

theorem placed_startMove (e : Int) (c : Nat) : Placed m (m.startMove e c).1 := by
  rw [startMove_eq]
  split
  · exact ⟨rfl, rfl⟩
  · split
    · exact ⟨rfl, rfl⟩
    · by_cases h : (if m.positive then m.pos < e else e < m.pos) ∧ ⌈m.stopDistance⌉ ≤ ((e - m.pos).natAbs : Int)
      · rw [if_pos h]
        exact ⟨rfl, rfl⟩
      · rw [if_neg h]
        exact placed_reverse (toMove m e c)

theorem placed_startRun (r : Int) : Placed m (m.startRun r).1 := by
  by_cases h : m.motion = .still
  · rw [startRun_still m r h]
    split_ifs <;> exact ⟨rfl, rfl⟩
  · by_cases h0 : r = 0
    · subst h0
      rw [startRun_zero m h]
      split_ifs <;> exact ⟨rfl, rfl⟩
    · rw [startRun_moving m r h h0]
      dsimp only
      split_ifs
      · exact ⟨rfl, rfl⟩
      · exact ⟨rfl, rfl⟩
      · exact ⟨rfl, rfl⟩
      · exact placed_reverse { m with goal := .velocity r, reversing := false }

theorem placed_startStop (rate : Nat) : Placed m (m.startStop rate).1 := by
  by_cases h : m.motion = .still
  · rw [startStop_still m rate h]
    exact ⟨rfl, rfl⟩
  · rw [startStop_moving m rate h]
    split_ifs <;> exact ⟨rfl, rfl⟩

end

section
variable {s t : State} {a : Axis}

theorem placed_firstPhase (v : Nat) (negative : Bool) : Placed (s.mg a) (s.firstPhase a v negative).2.1 := by
  unfold State.firstPhase
  dsimp only
  split_ifs
  · exact placed_startStop ..
  · exact ⟨rfl, rfl⟩
  · exact ⟨rfl, rfl⟩

theorem firstPhase_congr (hm : s.mg a = t.mg a) (hh : s.homeActive a = t.homeActive a) (v : Nat) (negative : Bool) :
    s.firstPhase a v negative = t.firstPhase a v negative := by
  unfold State.firstPhase
  rw [hm, hh]

theorem placed_handToMg (w : Work) : Placed (s.mg a) (s.handToMg a w).2.1 := by
  cases w with
  | moveAbs t v => exact placed_startMove ..
  | moveRel d v => exact placed_startMove ..
  | run r f => exact placed_startRun ..
  | stop => exact placed_startStop ..
  | dwell d => exact ⟨rfl, rfl⟩
  | home o v x negative => exact placed_firstPhase v negative
  | mark => exact ⟨rfl, rfl⟩

theorem handToMg_congr (hm : s.mg a = t.mg a) (hh : s.homeActive a = t.homeActive a) (ht : s.time = t.time) (w : Work) :
    s.handToMg a w = t.handToMg a w := by
  cases w with
  | home o v x negative =>
    unfold State.handToMg
    simp only [firstPhase_congr hm hh]
  | _ => simp only [State.handToMg, hm, ht]

end

/-! ### The start event -/

section
variable (s : State) (a : Axis)

/-- The MG with the profile of a bank. -/
def profiled (k : Option BankNo) : MG :=
  match k with
  | some k => { s.mg a with profile := (s.bank k).profile }
  | none => s.mg a

theorem mg_copyBank (k : Option BankNo) (c : Axis) : (s.copyBank a k).mg c = if c = a then profiled s a k else s.mg c := by
  cases k with
  | none => simp only [State.copyBank, profiled]; split <;> simp_all
  | some k =>
    unfold State.copyBank
    dsimp only
    rw [mg_lowerUse, mg_modMg]
    rfl

theorem copyBank_eq (k : Option BankNo) : s.copyBank a k = (s.modMg a fun _ => profiled s a k).lowerUse k ∨
    k = none ∧ s.copyBank a k = s := by
  cases k with
  | none => exact .inr ⟨rfl, rfl⟩
  | some k => exact .inl rfl

theorem seq_copyBank (k : Option BankNo) (c : Axis) : (s.copyBank a k).seq c = s.seq c := by
  rcases copyBank_eq s a k with h | ⟨-, h⟩
  · rw [h, seq_lowerUse, seq_modMg]
  · rw [h]

theorem cfg_lowerUse (k : Option BankNo) (c : Axis) : (s.lowerUse k).cfg c = s.cfg c := by
  obtain ⟨v, hv⟩ := lowerUse_eq s k
  rw [hv]; rfl

theorem cfg_copyBank (k : Option BankNo) (c : Axis) : (s.copyBank a k).cfg c = s.cfg c := by
  rcases copyBank_eq s a k with h | ⟨-, h⟩
  · rw [h, cfg_lowerUse, cfg_modMg]
  · rw [h]

theorem copyBank_frame (k : Option BankNo) : ∃ v w, s.copyBank a k = { s with axes := v, banks := w } := by
  rcases copyBank_eq s a k with h | ⟨-, h⟩
  · obtain ⟨w, hw⟩ := lowerUse_eq (s.modMg a fun _ => profiled s a k) k
    exact ⟨_, w, by rw [h, hw]; rfl⟩
  · exact ⟨s.axes, s.banks, h⟩

/-- The state at which the MG is handed its motion. -/
def readied (e : Entry) (b : SegBody) : State := (s.copyBank a e.seg.bankUse).applyOut b.outStart

/-- The entry is ACTIVE, the axis SQ_RUN, and the MG has its motion. -/
def activated (e : Entry) (b : SegBody) : State :=
  (((readied s a e b).modMg a fun _ => ((readied s a e b).handToMg a b.work).2.1).modSeq a fun q =>
    q.setHead (.active ((readied s a e b).handToMg a b.work).1)).setSq a .run

variable {s a}
variable {e : Entry} {b : SegBody}

theorem startEvent_eq (he : (s.seq a).candidate = some e) (hb : e.seg.body = some b) : s.startEvent a =
    ((activated s a e b).takeCount a b.start, ((readied s a e b).handToMg a b.work).2.2) := by
  unfold State.startEvent
  simp only [he, hb]
  rfl

theorem activated_frame (e : Entry) (b : SegBody) : ∃ v w o, activated s a e b = { s with axes := v, banks := w, outs := o } ∧
    w = (s.copyBank a e.seg.bankUse).banks ∧
    o = (s.outs &&& ~~~b.outStart.mask) ||| (b.outStart.value &&& b.outStart.mask) := by
  obtain ⟨v, w, h⟩ := copyBank_frame s a e.seg.bankUse
  have hr : readied s a e b = { s with axes := v, banks := w, outs :=
      (s.outs &&& ~~~b.outStart.mask) ||| (b.outStart.value &&& b.outStart.mask) } := by
    unfold readied
    rw [h]
    rfl
  unfold activated
  generalize (readied s a e b).handToMg a b.work = p
  rw [hr, h]
  exact ⟨_, w, _, rfl, rfl, rfl⟩

theorem mg_readied (e : Entry) (b : SegBody) : (readied s a e b).mg a = profiled s a e.seg.bankUse :=
  (mg_copyBank ..).trans (if_pos rfl)

theorem mg_activated (e : Entry) (b : SegBody) (c : Axis) : (activated s a e b).mg c =
    if c = a then ((readied s a e b).handToMg a b.work).2.1 else s.mg c := by
  unfold activated
  rw [mg_setSq, mg_modSeq, mg_modMg]
  split
  · rfl
  next h => exact (mg_copyBank ..).trans (if_neg h)

theorem seq_activated (e : Entry) (b : SegBody) (c : Axis) : (activated s a e b).seq c =
    if c = a then { (s.seq a).setHead (.active ((readied s a e b).handToMg a b.work).1) with sq := .run }
    else s.seq c := by
  have hr (c : Axis) : (readied s a e b).seq c = s.seq c := seq_copyBank ..
  unfold activated
  rw [seq_setSq, seq_modSeq, seq_modSeq, seq_modMg, seq_modMg, hr, hr]
  by_cases h : c = a
  · simp only [h, if_true]
  · simp only [h, if_false]

/-- What the start event hands the MG is what it would hand it with the profile in place. -/
theorem handed_eq (e : Entry) (b : SegBody) : (readied s a e b).handToMg a b.work =
    (s.modMg a fun _ => profiled s a e.seg.bankUse).handToMg a b.work := by
  refine handToMg_congr ?_ ?_ ?_ b.work
  · rw [mg_readied, mg_modMg, if_pos rfl]
  · have hc : (readied s a e b).cfg a = s.cfg a := cfg_copyBank ..
    have hl (l : Option Line) : (readied s a e b).levelOf l = s.levelOf l := by
      obtain ⟨v, w, h⟩ := copyBank_frame s a e.seg.bankUse
      unfold readied
      rw [h]
      rfl
    unfold State.homeActive
    rw [hc, hl, cfg_modMg]
    rfl
  · obtain ⟨v, w, h⟩ := copyBank_frame s a e.seg.bankUse
    unfold readied
    rw [h]
    rfl

end

/-! ### The count that a start takes -/

section
variable (s : State) (a : Axis) (st : Start)

/-- The signal gives one count. -/
def counted (n : SignalNo) : State := s.modSignal n fun x => { x with count := x.count - 1 }

theorem signal_counted (n m : SignalNo) : (counted s n).signal m =
    if m = n then { s.signal n with count := (s.signal n).count - 1 } else s.signal m := signal_modSignal ..

theorem takeCount_frame : ∃ v c w, s.takeCount a st = { s with axes := v, claims := c, signals := w } := by
  cases st with
  | waitSignal n =>
    obtain ⟨v, c, w, h⟩ := leaveList_frame (counted s n) a n
    exact ⟨v, c, w, h⟩
  | _ => exact ⟨s.axes, s.claims, s.signals, rfl⟩

theorem mg_takeCount (b : Axis) : (s.takeCount a st).mg b = s.mg b := by
  cases st with
  | waitSignal n => exact mg_leaveList (counted s n) a n b
  | _ => rfl

theorem nextWaiter_counted (n : SignalNo) (c : Axis) : nextWaiter (counted s n) a n = some c ↔
    (s.signal n).waiters.head? = some a ∧ ((s.signal n).waiters.filter (· != a)).head? = some c ∧
      1 < (s.signal n).count := by
  have hs := signal_counted s n n
  rw [if_pos rfl] at hs
  rw [nextWaiter_iff, hs]
  exact and_congr Iff.rfl (and_congr Iff.rfl (by dsimp only; omega))

end

section
variable {s : State} {a : Axis} {e : Entry} {b : SegBody}

/-- The axis that the start of another lets claim. -/
def NextServed (s : State) (a : Axis) (st : Start) (c : Axis) : Prop :=
  ∃ n, st = .waitSignal n ∧ (s.signal n).waiters.head? = some a ∧
    ((s.signal n).waiters.filter (· != a)).head? = some c ∧ 1 < (s.signal n).count ∧ (s.seq c).sq = .wait .cond

theorem takeCount_served {st : Start} {c : Axis} (h : NextServed s a st c) :
    (s.takeCount a st).seq c = waitsWith (s.seq c) .waitStart .place ∧
      (s.takeCount a st).claims = s.claims ++ [.axis c] := by
  obtain ⟨n, rfl, hh, hf, hc, hq⟩ := h
  have hn := (nextWaiter_counted s a n c).2 ⟨hh, hf, hc⟩
  constructor
  · exact (seq_leaveList (counted s n) a n c).trans (if_pos ⟨hn, hq⟩)
  · refine (claims_leaveList (counted s n) a n).trans ?_
    rw [hn]
    exact congrArg (s.claims ++ ·) (if_pos hq)

theorem takeCount_unserved {st : Start} {c : Axis} (h : ¬ NextServed s a st c) :
    (s.takeCount a st).seq c = s.seq c := by
  cases st with
  | waitSignal n =>
    refine (seq_leaveList (counted s n) a n c).trans (if_neg ?_)
    rintro ⟨hn, hq⟩
    obtain ⟨hh, hf, hc⟩ := (nextWaiter_counted s a n c).1 hn
    exact h ⟨n, rfl, hh, hf, hc, hq⟩
  | _ => rfl

theorem takeCount_self (st : Start) : (s.takeCount a st).seq a = s.seq a := by
  refine takeCount_unserved ?_
  rintro ⟨n, -, -, hf, -⟩
  have := List.mem_of_head? hf
  exact bne_iff_ne.1 (List.mem_filter.1 this).2 rfl

theorem takeCount_signal (n : SignalNo) : ((s.takeCount a (.waitSignal n)).signal n) =
    ⟨(s.signal n).count - 1, (s.signal n).waiters.filter (· != a)⟩ := by
  have hs := signal_counted s n n
  rw [if_pos rfl] at hs
  refine (signal_leaveList (counted s n) a n n).trans ((if_pos rfl).trans ?_)
  rw [hs]

/-! ### The grant of a place to start -/

theorem conditionLost_iff (st : Start) : s.conditionLost st = true ↔
    ∃ n, st = .waitSignal n ∧ (s.signal n).count = 0 := by
  cases st with
  | waitSignal n => simp [State.conditionLost]
  | _ => simp [State.conditionLost]

theorem grantStart_starts (hc : s.repeatChecks a b.work = none) (hl : ¬ s.conditionLost b.start = true) :
    s.grantStart a b = (s.startEvent a).1.takeMgEvent a (s.startEvent a).2 := by
  unfold State.grantStart
  rw [hc]
  exact if_neg hl

theorem grantStart_waits (hc : s.repeatChecks a b.work = none) (hl : s.conditionLost b.start = true) :
    s.grantStart a b = (s.returnPlace (.axis a)).waitCond a := by
  unfold State.grantStart
  rw [hc]
  exact if_pos hl

end

/-- The homing state of an axis whose head entry is ACTIVE. -/
theorem homing_active {q : Seq} {e : Entry} {h : Option HomeState} {rest : List Entry}
    (hw : q.window = { e with state := .active h } :: rest) : q.homing = h := by
  unfold Seq.homing Seq.activeEntry
  rw [hw]
  rfl

/-- Settles O54: the start event by its steps, then the grant. -/
theorem startEventActivatesTheCandidate : Obligations.StartEventActivatesTheCandidate := by
  refine ⟨fun s a e b he hb => ?_, fun s a e b he hb hst => ?_⟩
  · intro t
    have hse := startEvent_eq he hb
    have ht : t = (activated s a e b).takeCount a b.start := congrArg Prod.fst hse
    obtain ⟨v, w, o, hact, hbanks, ho⟩ := activated_frame (s := s) (a := a) e b
    obtain ⟨v', c, g, htake⟩ := takeCount_frame (activated s a e b) a b.start
    have hmg : t.mg a = ((readied s a e b).handToMg a b.work).2.1 := by
      rw [ht, mg_takeCount, mg_activated, if_pos rfl]
    have hplaced : Placed (profiled s a e.seg.bankUse) (t.mg a) := by
      rw [hmg, ← mg_readied e b]
      exact placed_handToMg b.work
    have hseq : t.seq a = { (s.seq a).setHead (.active ((readied s a e b).handToMg a b.work).1) with sq := .run } := by
      rw [ht, takeCount_self, seq_activated, if_pos rfl]
    have hwin : (t.seq a).window =
        { e with state := .active ((readied s a e b).handToMg a b.work).1 } :: (s.seq a).window.tail := by
      rw [hseq]
      exact window_setHead he _
    have hbank : t.banks = (s.copyBank a e.seg.bankUse).banks := by
      rw [ht, htake, ← hbanks, hact]
    have hsig (n : SignalNo) : (activated s a e b).signal n = s.signal n := by rw [hact]; rfl
    have hclaims : (activated s a e b).claims = s.claims := by rw [hact]
    refine ⟨by rw [hseq], ⟨_, hwin⟩, fun k hk => ⟨?_, ?_⟩, fun hk => ⟨?_, ?_⟩, ?_, ?_, ?_, fun n hn => ?_, fun c hc => ?_, ?_⟩
    · rw [hplaced.2, hk]
      rfl
    · change (t.banks.get k).uses = _
      rw [hbank, hk]
      exact (uses_lowerUse _ _ k).trans (by rw [if_pos rfl]; rfl)
    · rw [hplaced.2, hk]
      rfl
    · rw [hbank, hk]
      rfl
    · rw [ht, htake, hact]
      exact ho
    · rw [ht, htake, hact]
    · rw [hplaced.1]
      unfold profiled
      split <;> rfl
    · rw [ht, hn, takeCount_signal, hsig]
      exact ⟨rfl, rfl⟩
    · intro next
      have hq : (activated s a e b).seq c = s.seq c := by rw [seq_activated, if_neg hc]
      have hnext : NextServed (activated s a e b) a b.start c ↔ next := by
        unfold NextServed
        simp only [hsig, hq]
        rfl
      refine ⟨fun hn => ?_, fun hn => ?_⟩
      · obtain ⟨h1, h2⟩ := takeCount_served (hnext.2 hn)
        rw [ht, h1, h2, hclaims]
        exact ⟨rfl, rfl⟩
      · rw [ht, takeCount_unserved (mt hnext.1 hn), hq]
    · intro m
      have hm : profiled s a e.seg.bankUse = m := by
        unfold profiled
        cases hk : e.seg.bankUse <;> simp only [m, hk]
      have hhand : (readied s a e b).handToMg a b.work = (s.modMg a fun _ => m).handToMg a b.work := by
        rw [handed_eq, hm]
      have hmm : (s.modMg a fun _ => m).mg a = m := (mg_modMg ..).trans (if_pos rfl)
      constructor
      · rw [hse, hmg, hhand]
        cases b.work <;> simp only [State.handToMg, hmm] <;> rfl
      · rw [homing_active hwin, hhand]
        cases b.work <;> rfl
  · intro p back
    have hback : back = s.grantStart a b := grantAxis_start he hst hb
    refine ⟨fun why h => hback.trans (grantStart_rejects h), fun hc => ⟨fun hn => ?_, fun n hn h0 => ?_⟩⟩
    · refine hback.trans (grantStart_starts hc ?_)
      rw [conditionLost_iff]
      rintro ⟨n, h1, h2⟩
      exact absurd (hn n h1) (by omega)
    · have hw := hback.trans (grantStart_waits hc ((conditionLost_iff _).2 ⟨n, hn, h0⟩))
      have hs := seq_waitCond (s.returnPlace (.axis a)) a a
      rw [if_pos rfl] at hs
      refine ⟨by rw [hw, hs]; rfl, ?_, by rw [hw]; rfl, by rw [hw]; rfl, ?_⟩
      · rw [hw, hs]
        exact window_waitsWith he _ _
      · rw [hw, State.waitCond, mg_setSq, State.setProgress, mg_modSeq]
        rfl

end Sys2Proof.Proofs

/-! The completion event of a segment (R21, R64, R66) and the homing run (chapter 4). -/

namespace Sys2Proof.Proofs

open Sys2Proof.Machine Sys2Proof.Safety Sys2Proof.Laws

/-! ### The completion event -/

section
variable (s : State) (a : Axis) (aux : Int) (e : Entry) (b : SegBody)

/-- The outputs and the SEG_DONE of a completion. -/
def recorded : State := (s.applyOut b.outEnd).fill (.axis a) (segDone (s.applyOut b.outEnd) a e aux)

/-- The state of a completion at the removal of its entry. -/
def completed : State :=
  let w := match b.postSignal with
    | some n => (recorded s a aux e b).postSignal n 1
    | none => recorded s a aux e b
  (w.removeHead a).modMg a MG.clearGoal

variable {s a aux e b}

theorem completionEvent_eq (he : (s.seq a).activeEntry = some e) (hb : e.seg.body = some b) :
    s.completionEvent a aux = (completed s a aux e b).afterCompletion a b.work := by
  unfold State.completionEvent
  simp only [he, hb]
  rfl

theorem afterCompletion_next {w : Work} (h : (s.seq a).window ≠ []) : s.afterCompletion a w = s.arm a := by
  unfold State.afterCompletion
  cases hw : (s.seq a).window with
  | nil => exact absurd hw h
  | cons e rest => rfl

theorem afterCompletion_empty {w : Work} (h : (s.seq a).window = []) (hw : ∀ r, w ≠ .run r true) :
    s.afterCompletion a w = s.setSq a .empty := by
  unfold State.afterCompletion
  rw [h]
  split
  next r _ => exact absurd rfl (hw r)
  next => rfl
  next h' => cases h'

theorem afterCompletion_follow {r : Int} (h : (s.seq a).window = []) :
    s.afterCompletion a (.run r true) = (s.setSq a .empty).haltCause a .underrun .soft false := by
  unfold State.afterCompletion
  rw [h]

end

/-- Settles O55. -/
theorem completionEventInItsOrder : Obligations.CompletionEventInItsOrder := by
  intro s a aux e b he hb u v w x t
  have hw : w = match b.postSignal with
      | some n => (recorded s a aux e b).postSignal n 1
      | none => recorded s a aux e b := by
    cases hp : b.postSignal <;> simp only [w, hp] <;> rfl
  have hx : x = completed s a aux e b := by
    unfold completed
    rw [← hw]
    rfl
  have ht : t = x.afterCompletion a b.work := by
    rw [hx]
    exact completionEvent_eq he hb
  refine ⟨fun h => ht.trans (afterCompletion_next h), fun h hr => ht.trans (afterCompletion_empty h hr), fun r h hr => ?_⟩
  rw [ht, hr]
  exact afterCompletion_follow h

/-! ### The end of SETTLE and the home edge -/

theorem setHead_cons {q : Seq} {e : Entry} {rest : List Entry} (h : q.window = e :: rest) (x : EntryState) :
    (q.setHead x).window = { e with state := x } :: rest := by
  unfold Seq.setHead
  simp only [h]

/-- An axis with a homing run has a head entry. -/
theorem window_of_homing {q : Seq} {h : HomeState} (hq : q.homing = some h) : ∃ e rest, q.window = e :: rest := by
  cases hw : q.window with
  | nil =>
    unfold Seq.homing Seq.activeEntry at hq
    rw [hw] at hq
    cases hq
  | cons e rest => exact ⟨e, rest, rfl⟩

theorem startSettle_fast {m : MG} (h : square m.profile.vstop < m.speedSq) : m.startSettle =
    ({ m with goal := .position (if m.positive then m.pos + wholeSteps m.stopDistance else m.pos - wholeSteps m.stopDistance),
              form := .settle, reversing := false, motion := .decel, rate := m.profile.decel }, .none) :=
  if_neg (not_le.2 h)

theorem startSettle_slow {m : MG} (h : m.speedSq ≤ square m.profile.vstop) :
    m.startSettle.2 = .targetReached ∧ m.startSettle.1.motion = .still ∧ m.startSettle.1.speedSq = 0 ∧
      m.startSettle.1.pos = m.pos := by
  have e : m.startSettle = (MG.stand _, .targetReached) := if_pos h
  rw [e]
  exact ⟨rfl, rfl, rfl, rfl⟩

section
variable (s : State) (a : Axis) (h : HomeState) (b : SegBody)

/-- The home edge recorded. -/
def edgeTaken : State :=
  ((s.modFbm a fun f => { f with homeCount := (s.fbm a).count }).setHoming a
    { h with phase := .settle, homePoint := some (s.mg a).pos, edgeCount := some (s.fbm a).count }).modMg a
      fun _ => (s.mg a).startSettle.1

theorem homeEdge_eq : s.homeEdge a h b = if (s.mg a).startSettle.2 = .targetReached then
    (edgeTaken s a h).settleEnd a { h with phase := .settle, homePoint := some (s.mg a).pos, edgeCount := some (s.fbm a).count } b
    else edgeTaken s a h := by
  have hm : ((s.modFbm a fun f => { f with homeCount := (s.fbm a).count }).setHoming a
      { h with phase := .settle, homePoint := some (s.mg a).pos, edgeCount := some (s.fbm a).count }).mg a = s.mg a := by
    rw [State.setHoming, mg_modSeq, mg_modFbm]
  unfold State.homeEdge edgeTaken
  dsimp only
  rw [hm]

theorem edgeTaken_fields (hh : (s.seq a).homing ≠ none) :
    ((edgeTaken s a h).seq a).homing = some ⟨.settle, h.searchPositive, some (s.mg a).pos, some (s.fbm a).count⟩ ∧
    (edgeTaken s a h).fbm a = { s.fbm a with homeCount := (s.fbm a).count } ∧
    (edgeTaken s a h).mg a = (s.mg a).startSettle.1 := by
  obtain ⟨x, hx⟩ := Option.ne_none_iff_exists'.1 hh
  obtain ⟨e, rest, hw⟩ := window_of_homing hx
  unfold edgeTaken
  refine ⟨?_, ?_, ?_⟩
  · rw [seq_modMg, State.setHoming, seq_modSeq, if_pos rfl, seq_modFbm]
    exact homing_active (setHead_cons hw _)
  · rw [fbm_modMg, State.setHoming, fbm_modSeq, fbm_modFbm, if_pos rfl]
  · rw [mg_modMg, if_pos rfl]

theorem settleEnd_eq {o : Int} {v : Nat} {x y : Bool} {p : Int} (hb : b.work = .home o v x y) (hp : h.homePoint = some p) :
    s.settleEnd a h b = if inRange (o + ((s.mg a).pos - p)) then
      (s.setPosition a (o + ((s.mg a).pos - p))).completionEvent a p else s.haltCause a .homeFail .soft false := by
  have ho : homeOffset b = o := by
    unfold homeOffset
    rw [hb]
  unfold State.settleEnd
  rw [hp]
  dsimp only
  rw [ho]
  rfl

end

/-! ### The phases -/

section
variable (s : State) (a : Axis)

theorem firstPhase_moving (v : Nat) (negative : Bool) (h : (s.mg a).motion ≠ .still) : s.firstPhase a v negative =
    (⟨.leadIn, !negative, none, none⟩, (s.mg a).startStop (s.mg a).profile.decel) := by
  have : (s.mg a).isStill = false := Bool.eq_false_iff.2 (mt (isStill_iff _).1 h)
  unfold State.firstPhase
  simp only [this, Bool.not_false, if_true]

theorem firstPhase_still (v : Nat) (negative : Bool) (h : (s.mg a).motion = .still) : s.firstPhase a v negative =
    if s.homeActive a then (⟨.clear, !negative, none, none⟩, (s.mg a).startSeek negative v, .none)
    else (⟨.search, !negative, none, none⟩, (s.mg a).startSeek (!negative) v, .none) := by
  have : (s.mg a).isStill = true := (isStill_iff _).2 h
  unfold State.firstPhase
  simp only [this, Bool.not_true, Bool.false_eq_true, if_false]

theorem firstPhase_state (v : Nat) (negative : Bool) : (s.firstPhase a v negative).1.searchPositive = !negative ∧
    (s.firstPhase a v negative).1.homePoint = none ∧ (s.firstPhase a v negative).1.edgeCount = none := by
  by_cases h : (s.mg a).motion = .still
  · rw [firstPhase_still s a v negative h]
    split <;> exact ⟨rfl, rfl, rfl⟩
  · rw [firstPhase_moving s a v negative h]
    exact ⟨rfl, rfl, rfl⟩

end

/-! ### The home line -/

theorem seeking_iff (m : MG) : m.seeking = true ↔ ∃ r, m.goal = .velocity r := by
  unfold MG.seeking
  cases m.goal <;> simp

section
variable {s : State} {a : Axis} {l : Line} {h : HomeState} {b : SegBody}

theorem homeRole_elsewhere (v : Bool) (hl : (s.cfg a).homeLine ≠ some l) : State.homeRole l v a s = s := if_neg hl

theorem homeRole_idle (v : Bool) (hh : (s.seq a).homing = none) : State.homeRole l v a s = s := by
  unfold State.homeRole
  rw [hh]
  split <;> rfl

/-- The home role during a HOME, by its phase and the level. -/
theorem homeRole_homing (v : Bool) (hl : (s.cfg a).homeLine = some l) (hh : (s.seq a).homing = some h)
    (hb : s.activeBody a = some b) : State.homeRole l v a s = match h.phase, v with
      | .clear, false => if (s.mg a).seeking then s.homeDescend a h b (s.mg a).profile.decel else s
      | .search, true => s.homeEdge a h b
      | .searchBack, true => if (s.mg a).seeking then s.homeEdge a h b else s
      | _, _ => s := by
  unfold State.homeRole
  rw [if_pos hl, hh, hb] <;> rfl

end

/-- Settles O56: the home edge and the end of SETTLE, the first phase, the turns, and the home line. -/
theorem homeEdgeAndItsReReference : Obligations.HomeEdgeAndItsReReference := by
  refine ⟨fun s a h b => ?_, fun s a v negative => ?_, fun s a h o v x y b hb => ?_, fun s a l v h b => ?_⟩
  · intro m w
    have hw : ((w : Nat) : Rat) = square m.profile.vstop := rfl
    refine ⟨fun hh hs => ?_, fun hh hs => ?_, fun o v x y p hb hp => ⟨fun h1 h2 => ?_, fun hn => ?_⟩⟩
    · intro t d
      have hf := startSettle_fast (hw ▸ hs)
      have ht : t = edgeTaken s a h := (homeEdge_eq s a h b).trans (if_neg (by rw [hf]; simp))
      obtain ⟨k1, k2, k3⟩ := edgeTaken_fields s a h (by rw [hh]; simp)
      rw [hf] at k3
      have hd : wholeSteps (s.mg a).stopDistance = d := by
        rw [wholeSteps_eq, stopDistance_eq, if_pos (hw ▸ hs)]
        rfl
      rw [hd] at k3
      rw [ht, k1, k2, k3]
      exact ⟨rfl, rfl, rfl, rfl, rfl, rfl, rfl⟩
    · intro h'
      obtain ⟨g1, g2, g3, g4⟩ := startSettle_slow (hw ▸ hs)
      obtain ⟨k1, k2, k3⟩ := edgeTaken_fields s a h (by rw [hh]; simp)
      refine ⟨edgeTaken s a h, (homeEdge_eq s a h b).trans (if_pos g1), k1, by rw [k2], ?_, ?_, ?_⟩
      · rw [k3]; exact g2
      · rw [k3]; exact g3
      · rw [k3]; exact g4
    · exact (settleEnd_eq s a h b hb hp).trans (if_pos ((inRange_iff _).2 ⟨h1, h2⟩))
    · refine (settleEnd_eq s a h b hb hp).trans (if_neg ?_)
      rw [inRange_iff]
      rintro ⟨h1, h2⟩
      rcases hn with hn | hn
      · exact absurd h1 (not_le.2 hn)
      · exact absurd h2 (not_le.2 hn)
  · intro m p home
    obtain ⟨k1, k2, k3⟩ := firstPhase_state s a v negative
    refine ⟨k1, k2, k3, fun hm => ?_, fun hm hh => ?_, fun hm hh => ?_, fun side => ⟨rfl, rfl, rfl, rfl⟩⟩
    · have := firstPhase_moving s a v negative hm
      exact ⟨congrArg (·.1.phase) this, congrArg (·.2) this⟩
    · have := (firstPhase_still s a v negative hm).trans (if_pos hh)
      exact ⟨congrArg (·.1.phase) this, congrArg (·.2) this⟩
    · have := (firstPhase_still s a v negative hm).trans (if_neg (Bool.eq_false_iff.1 hh))
      exact ⟨congrArg (·.1.phase) this, congrArg (·.2) this⟩
  · intro q home again fails goes
    have hv : homeVelocity b = v := by
      unfold homeVelocity
      rw [hb]
      rfl
    have hgo (p : HomePhase) (side : Bool) : s.beginPhase a h p side b = goes p side := by
      unfold State.beginPhase
      rw [hv]
    unfold State.homeStandstill
    dsimp only
    simp only [hgo]
    cases h.phase <;> rfl
  · intro seeks
    have hseek : (s.mg a).seeking = true ↔ seeks := seeking_iff _
    refine ⟨homeRole_elsewhere v, homeRole_idle v, fun hl hh hb => ⟨fun hp => ?_, fun hp hs => ?_, fun hp hs => ?_, fun hp hs => ?_, fun hp => ?_⟩⟩
    · rw [homeRole_homing true hl hh hb, hp]
    · rw [homeRole_homing true hl hh hb, hp]
      exact if_pos (hseek.2 hs)
    · rw [homeRole_homing false hl hh hb, hp]
      exact if_pos (hseek.2 hs)
    · rw [homeRole_homing v hl hh hb]
      rcases hp with hp | hp <;> rw [hp] <;> cases v
      · exact if_neg (mt hseek.1 hs)
      · rfl
      · rfl
      · exact if_neg (mt hseek.1 hs)
    · rw [homeRole_homing v hl hh hb]
      rcases hp with hp | hp | ⟨hp, hv⟩ | ⟨hv, hp | hp⟩ <;> rw [hp]
      · rw [hv]
      · rw [hv]
      · rw [hv]

end Sys2Proof.Proofs

/-! The lines (chapter 7) and the encoder inputs: the filter of a line, the roles that take its edge, and the
quadrature decoder. -/

namespace Sys2Proof.Proofs

open Sys2Proof.Machine Sys2Proof.Safety Sys2Proof.Laws

/-! ### The edge of a line -/

section
variable (s : State) (l : Line)

theorem raw_eq : (s.line l).raw = ((s.line l).pin != (s.line l).activeLow) := rfl

/-- The roles that take an edge do not change a line. -/
theorem line_filteredEdge (k : Line) : (s.filteredEdge l).line k = if k = l then
    { s.line l with filtered := (s.line l).raw, pendingSince := none } else s.line k := by
  rw [← line_modLine s l k fun x => { x with filtered := (s.line l).raw, pendingSince := none }]
  refine Does.line ?_ k
  unfold State.filteredEdge
  refine Does.trans ?_ (does_stopRole _ l _)
  refine Does.trans ?_ (does_forEach _ (fun u s => does_captureRole s l _ u) _)
  refine Does.trans ?_ (does_forEach _ (fun a s => does_inputRole s a l _) _)
  refine Does.trans ?_ (does_atOneStep _ _ fun x h s => by
    obtain ⟨a, _, rfl⟩ := List.mem_map.1 h
    exact does_homeRole s a l _)
  exact does_limitLevel _ l _

end

/-! ### The start condition -/

theorem waitsOn_iff (s : State) (l : Line) (v : Bool) (a : Axis) : s.waitsOn l v a = true ↔
    (s.seq a).sq = .wait .cond ∧ ∃ e b g, (s.seq a).candidate = some e ∧ e.seg.body = some b ∧
      b.start = .waitInput l g ∧ (match g with | .rise | .active => v = true | .fall => v = false) := by
  unfold State.waitsOn
  rw [Bool.and_eq_true, beq_iff_eq]
  refine and_congr Iff.rfl ?_
  cases hc : (s.seq a).candidate with
  | none => simp
  | some e =>
    cases hb : e.seg.body with
    | none => simp [hb]
    | some b =>
      cases hs : b.start with
      | waitInput k g => cases g <;> simp [hb, hs, waitEdgeTakes]
      | _ => simp [hb, hs]

/-! ### The filter -/

section
variable (s : State) (l : Line) (h : Bool)

theorem exec_rawChange (hr : s.resetHeld = false) : exec (.rawChange l h) s = s.event fun s => s.rawChanged l h := by
  change (if s.resetHeld = true then _ else _) = _
  rw [if_neg (by simp [hr])]

theorem exec_filterExpiry : exec (.filterExpiry l) s = s.event fun s => s.filterExpired l := rfl

/-- The pin at its new level. -/
def pinned : State := s.modLine l fun x => { x with pin := h }

theorem line_pinned : (pinned s l h).line l = { s.line l with pin := h } := by
  unfold pinned
  rw [line_modLine, if_pos rfl]

/-- A raw change, by the raw level and the filter time. -/
theorem filterRaw_pinned : (pinned s l h).filterRaw l =
    if (h != (s.line l).activeLow) = (s.line l).filtered then
      (pinned s l h).modLine l fun x => { x with pendingSince := none }
    else if (s.line l).filterTime = 0 then (pinned s l h).filteredEdge l
    else (pinned s l h).modLine l fun x => { x with pendingSince := some s.time } := by
  unfold State.filterRaw
  rw [raw_eq, line_pinned]
  rfl

theorem rawChanged_eq (hp : (s.line l).pin ≠ h) : s.rawChanged l h = some ((pinned s l h).filterRaw l) := if_neg hp

end

/-- Settles O17: the edge with its roles, the start condition, the machine stop, and the filter by its cases. -/
theorem filterRaisesTheEdge : Obligations.FilterRaisesTheEdge := by
  refine ⟨fun s l k => line_filteredEdge s l k, fun s l => rfl, fun s l v a => ?_, fun s l k => ⟨?_, fun hn => ?_, fun hk => ?_⟩,
    fun s l h hr => ?_⟩
  · intro waits t
    have hw : s.waitsOn l v a = true ↔ waits := waitsOn_iff s l v a
    refine ⟨fun hn => if_neg (mt hw.1 hn), fun hy => ?_⟩
    have ht : t = s.claimStart a := (if_pos (hw.2 hy)).trans (meet_waiting s a hy.1)
    rw [ht]
    refine ⟨by rw [seq_claimStart, if_pos rfl], rfl, fun b hb => by rw [seq_claimStart, if_neg hb]⟩
  · unfold State.stopRole
    split <;> rfl
  · unfold State.stopRole
    rw [hn]
  · unfold State.stopRole
    rw [hk]
    exact (if_pos rfl).trans (if_congr (supervised_iff s) rfl rfl)
  · intro u raw
    rw [exec_rawChange s l h hr, exec_filterExpiry]
    have raised (hp : (s.line l).pin ≠ h) : (s.event fun s => s.rawChanged l h) = .next ((pinned s l h).filterRaw l).finish :=
      event_some s hr (rawChanged_eq s l h hp)
    refine ⟨fun hp => event_none s (if_pos hp), fun hp hw => ?_, fun hp hw hf => ?_, fun hp hw hf => ?_, fun t ht => ?_,
      fun ht => ?_⟩
    · rw [raised hp, filterRaw_pinned, if_pos hw]
      rfl
    · rw [raised hp, filterRaw_pinned, if_neg hw, if_pos hf]
      rfl
    · rw [raised hp, filterRaw_pinned, if_neg hw, if_neg hf]
      rfl
    · refine event_some s hr ?_
      unfold State.filterExpired
      rw [ht]
    · refine event_none s ?_
      unfold State.filterExpired
      rw [ht]

/-! ### The limit role -/

section
variable (s : State) (l : Line) (a : Axis) (side : Bool)

/-- The line component of a side at a level. -/
def blockSet (v : Bool) : State := s.modSeq a fun q => q.setLineBlock side v

theorem seq_blockSet (v : Bool) : (blockSet s a side v).seq a = (s.seq a).setLineBlock side v :=
  (seq_modSeq ..).trans (if_pos rfl)

theorem homing_setLineBlock (q : Seq) (v : Bool) : (q.setLineBlock side v).homing = q.homing := by
  unfold Seq.setLineBlock
  cases side <;> rfl

theorem activeEntry_setLineBlock (q : Seq) (v : Bool) : (q.setLineBlock side v).activeEntry = q.activeEntry := by
  unfold Seq.setLineBlock
  cases side <;> rfl

theorem activeBody_blockSet (v : Bool) : (blockSet s a side v).activeBody a = s.activeBody a := by
  unfold State.activeBody
  rw [seq_blockSet, activeEntry_setLineBlock]

variable {s l a side}

theorem limitRole_other (v : Bool) (h : (s.cfg a).limit side ≠ some l) : State.limitRole l v a side s = s := if_neg h

theorem limitRole_inactive (h : (s.cfg a).limit side = some l) : State.limitRole l false a side s = blockSet s a side false :=
  (if_pos h).trans (if_neg Bool.false_ne_true)

theorem limitRole_active (h : (s.cfg a).limit side = some l) : State.limitRole l true a side s = s.limitEdge a side :=
  (if_pos h).trans (if_pos rfl)

theorem limitEdge_idle (h : (s.seq a).homing = none) : s.limitEdge a side = (blockSet s a side true).limitHalt a side := by
  have hh : ((blockSet s a side true).seq a).homing = none := by rw [seq_blockSet, homing_setLineBlock, h]
  unfold State.limitEdge
  change (match ((blockSet s a side true).seq a).homing, (blockSet s a side true).activeBody a with
    | some h, some b => (blockSet s a side true).limitInHome a side h b
    | _, _ => (blockSet s a side true).limitHalt a side) = _
  rw [hh]

theorem limitEdge_homing {h : HomeState} {b : SegBody} (hh : (s.seq a).homing = some h) (hb : s.activeBody a = some b) :
    s.limitEdge a side = (blockSet s a side true).limitInHome a side h b := by
  have h1 : ((blockSet s a side true).seq a).homing = some h := by rw [seq_blockSet, homing_setLineBlock, hh]
  have h2 : (blockSet s a side true).activeBody a = some b := by rw [activeBody_blockSet, hb]
  unfold State.limitEdge
  change (match ((blockSet s a side true).seq a).homing, (blockSet s a side true).activeBody a with
    | some h, some b => (blockSet s a side true).limitInHome a side h b
    | _, _ => (blockSet s a side true).limitHalt a side) = _
  rw [h1, h2]

theorem toward_iff (m : MG) : m.toward side = true ↔ m.motion ≠ .still ∧ m.positive = side := by
  unfold MG.toward
  rw [Bool.and_eq_true, Bool.not_eq_true', ← Bool.not_eq_true, isStill_iff, beq_iff_eq]

theorem limitHalt_blockSet : (blockSet s a side true).limitHalt a side =
    if (s.mg a).motion ≠ .still ∧ (s.mg a).positive = side then
      (blockSet s a side true).haltCause a (if side then .limitPos else .limitNeg) (s.cfg a).limitAction false
    else blockSet s a side true := by
  have hm : (blockSet s a side true).mg a = s.mg a := mg_modSeq ..
  have hc : (blockSet s a side true).cfg a = s.cfg a := cfg_modSeq ..
  unfold State.limitHalt
  rw [hm, hc]
  refine if_congr (toward_iff _) ?_ rfl
  cases side <;> rfl

/-- The home line is the limit line of the search side. -/
theorem excepted_eq (h : HomeState) (hl : (s.cfg a).limit side = some l) :
    ((side == h.searchPositive) && (blockSet s a side true).homeIsLimit a h) =
      (side == h.searchPositive && (s.cfg a).homeLine == some l) := by
  have hc : (blockSet s a side true).cfg a = s.cfg a := cfg_modSeq ..
  unfold State.homeIsLimit
  rw [hc]
  by_cases e : side = h.searchPositive
  · rw [← e, hl]
    cases (s.cfg a).homeLine with
    | none => rfl
    | some k => rfl
  · rw [beq_eq_false_iff_ne.2 e]
    rfl

theorem homeDescend_eq (s : State) (a : Axis) (h : HomeState) (b : SegBody) (rate : Nat) : s.homeDescend a h b rate =
    let p := (s.mg a).startStop rate
    let t := (s.setHoming a h).modMg a fun _ => p.1
    if p.2 = .standstill then t.homeStandstill a h b else t := rfl

end

/-- Settles O18: by the phase of the HOME. -/
theorem limitEdgeBlocksAndHalts : Obligations.LimitEdgeBlocksAndHalts := by
  intro s l a side block halted
  refine ⟨fun h v => limitRole_other v h, fun hl => ⟨limitRole_inactive hl, fun hh => ?_, fun h o v reverse neg bank st post x y hh hb => ?_⟩⟩
  · exact (limitRole_active hl).trans ((limitEdge_idle hh).trans limitHalt_blockSet)
  · have hm : (blockSet s a side true).mg a = s.mg a := mg_modSeq ..
    have hc : (blockSet s a side true).cfg a = s.cfg a := cfg_modSeq ..
    have hhalt : (blockSet s a side true).limitHalt a side = halted := limitHalt_blockSet
    have hx := excepted_eq h hl
    refine (limitRole_active hl).trans ((limitEdge_homing hh hb).trans ?_)
    unfold State.limitInHome
    dsimp only
    rw [hx, hhalt, homeDescend_eq, hm, hc]
    cases h.phase <;> rfl

/-! ### The capture units -/

/-- Settles O19, by the state of the unit. -/
theorem captureTakesTheEdge : Obligations.CaptureTakesTheEdge := by
  intro s l active u c hit
  have hedge : c.edge.takes active = (match c.edge with | .rise => active | .fall => !active | .both => true) := by
    cases c.edge <;> rfl
  have hhit : (c.line = l && c.edge.takes active) = hit := by
    rw [hedge]
    rfl
  refine ⟨fun h => ?_, fun p h => ?_, fun p h => ?_, fun h => ?_⟩
  · unfold State.captureRole
    rw [h]
    dsimp only
    rw [hhit]
    rfl
  · unfold State.captureRole
    rw [h]
    dsimp only
    rw [hhit]
  · unfold State.captureRole
    rw [h]
  · unfold State.captureRole
    rw [h]

/-! ### The quadrature decoder -/

section
variable (f : FBM) (x y : Bool)

theorem turn_forward : (x, y) = (!f.encB, f.encA) ↔ f.turn x y = 1 := by
  unfold FBM.turn
  cases f.encA <;> cases f.encB <;> cases x <;> cases y <;> decide

theorem turn_backward : (x, y) = (f.encB, !f.encA) ↔ f.turn x y = 3 := by
  unfold FBM.turn
  cases f.encA <;> cases f.encB <;> cases x <;> cases y <;> decide

theorem turn_both : (x, y) = (!f.encA, !f.encB) ↔ f.turn x y = 2 := by
  unfold FBM.turn
  cases f.encA <;> cases f.encB <;> cases x <;> cases y <;> decide

theorem turn_none : (x, y) = (f.encA, f.encB) ↔ f.turn x y = 0 := by
  unfold FBM.turn
  cases f.encA <;> cases f.encB <;> cases x <;> cases y <;> decide

end

section
variable (s : State) (a : Axis) (x y : Bool)

/-- The decoder state with its count. -/
def decoded (n : Word) : State := s.modFbm a fun g => { g with count := n, encA := x, encB := y }

theorem exec_encoderChange (hr : s.resetHeld = false) :
    exec (.encoderChange a x y) s = s.event fun s => s.encoderChanged a x y := by
  change (if s.resetHeld = true then _ else _) = _
  rw [if_neg (by simp [hr])]

theorem modFbm_congr {f g : FBM → FBM} (h : f (s.fbm a) = g (s.fbm a)) : s.modFbm a f = s.modFbm a g := by
  have e : (fun x : AxisState => { x with fbm := f x.fbm }) (s.axis a) = (fun x => { x with fbm := g x.fbm }) (s.axis a) :=
    congrArg (fun y => { s.axis a with fbm := y }) h
  unfold State.modFbm State.modAxis
  rw [e]

theorem modFbm_decode {n : Word} (h : ((s.fbm a).decode x y).count = n) :
    (s.modFbm a fun f => f.decode x y) = decoded s a x y n := by
  refine modFbm_congr s a ?_
  rw [← h]
  rfl

section
variable {s a x y}

theorem encoderChanged_forward (h : (s.fbm a).turn x y = 1) :
    s.encoderChanged a x y = some ((decoded s a x y ((s.fbm a).count + 1)).testDeviation a) := by
  rw [← modFbm_decode s a x y (n := (s.fbm a).count + 1) (by simp only [FBM.decode, h])]
  simp only [State.encoderChanged, h]

theorem encoderChanged_backward (h : (s.fbm a).turn x y = 3) :
    s.encoderChanged a x y = some ((decoded s a x y ((s.fbm a).count - 1)).testDeviation a) := by
  rw [← modFbm_decode s a x y (n := (s.fbm a).count - 1) (by simp only [FBM.decode, h])]
  simp only [State.encoderChanged, h]

theorem encoderChanged_both (h : (s.fbm a).turn x y = 2) : s.encoderChanged a x y =
    some (if (decoded s a x y (s.fbm a).count).monitored a then
      (decoded s a x y (s.fbm a).count).takeFault a .encoder .hard else decoded s a x y (s.fbm a).count) := by
  rw [← modFbm_decode s a x y (n := (s.fbm a).count) (by simp only [FBM.decode, h])]
  simp only [State.encoderChanged, h]

theorem encoderChanged_none (h : (s.fbm a).turn x y = 0) : s.encoderChanged a x y = none := by
  simp only [State.encoderChanged, h]

end

theorem monitored_decoded (n : Word) : (decoded s a x y n).monitored a = s.monitored a := by
  unfold State.monitored decoded
  rw [seq_modFbm, cfg_modFbm]
  rfl

end

/-- Settles O20, by the turn of the pair. -/
theorem encoderCountsQuadrature : Obligations.EncoderCountsQuadrature := by
  intro s a x y hr f u
  rw [exec_encoderChange s a x y hr]
  refine ⟨fun h => ?_, fun h => ?_, fun h => ?_, fun h => ?_⟩
  · exact event_some s hr (encoderChanged_forward ((turn_forward f x y).1 h))
  · exact event_some s hr (encoderChanged_backward ((turn_backward f x y).1 h))
  · refine event_some s hr ((encoderChanged_both ((turn_both f x y).1 h)).trans ?_)
    rw [monitored_decoded]
    rfl
  · exact event_none s (encoderChanged_none ((turn_none f x y).1 h))

end Sys2Proof.Proofs

/-! What halts can change (R46, R97 to R104): a relation that every step of a halt event keeps, and what a
halt leaves of an axis that it does not reach. -/

namespace Sys2Proof.Proofs

open Sys2Proof.Machine Sys2Proof.Safety Sys2Proof.Laws

/-! ### The relation -/

/-- The state `t` with what halts can change of it taken from `s`. -/
def unhalted (s t : State) : State :=
  { t with
    axes := s.axes, queue := s.queue, owed := s.owed, claims := s.claims, cte := s.cte
    signals := s.signals, overflowMask := s.overflowMask, rdv := s.rdv, caps := s.caps }

/-- What halts can change of a state: notices and records join their lists, waiting claims and arrivals are
withdrawn, axes leave the states in which they could take a segment, and a waiting BARRIER may end. -/
structure Halting (s t : State) : Prop where
  rest : unhalted s t = s
  cfg : ∀ b, t.cfg b = s.cfg b
  fbm : ∀ b, t.fbm b = s.fbm b
  pos : ∀ b, (t.mg b).pos = (s.mg b).pos
  watcher : ∀ w b, (t.mg w).watchers.get b = (s.mg w).watchers.get b ∨ (t.mg w).watchers.get b = none
  block : ∀ b, (t.seq b).lineNeg = (s.seq b).lineNeg ∧ (t.seq b).linePos = (s.seq b).linePos
  live : ∀ b, live t b → live s b
  cte : t.cte = s.cte ∨ t.cte = .idle ∧ ∃ b, s.cte = .barrier b
  writing : t.queue.writing = s.queue.writing
  filled : s.queue.filled <+: t.queue.filled
  held : s.queue.held ≤ t.queue.held
  signal : ∀ n, (t.signal n).count = (s.signal n).count ∧ (t.signal n).waiters.Sublist (s.signal n).waiters
  entry : ∀ e, t.entry e = s.entry e ∨ (s.entry e).arrived ≠ 0 ∧
    ∃ x, (x = (s.entry e).state ∨ x = .broken) ∧ t.entry e = { s.entry e with state := x, arrived := 0 }
  fire : ∀ e, Claim.fire e ∈ t.claims → Claim.fire e ∈ s.claims

namespace Halting

variable {s t u : State}

theorem refl (s : State) : Halting s s where
  rest := rfl
  cfg _ := rfl
  fbm _ := rfl
  pos _ := rfl
  watcher _ _ := .inl rfl
  block _ := ⟨rfl, rfl⟩
  live _ h := h
  cte := .inl rfl
  writing := rfl
  filled := List.prefix_refl _
  held := Nat.le_refl _
  signal _ := ⟨rfl, List.Sublist.refl _⟩
  entry _ := .inl rfl
  fire _ h := h

theorem trans (h : Halting s t) (k : Halting t u) : Halting s u where
  rest := by
    have hk : unhalted s (unhalted t u) = unhalted s t := congrArg (unhalted s) k.rest
    exact hk.trans h.rest
  cfg b := (k.cfg b).trans (h.cfg b)
  fbm b := (k.fbm b).trans (h.fbm b)
  pos b := (k.pos b).trans (h.pos b)
  watcher w b := (k.watcher w b).elim (fun e => (h.watcher w b).imp e.trans e.trans) .inr
  block b := ⟨(k.block b).1.trans (h.block b).1, (k.block b).2.trans (h.block b).2⟩
  live b x := h.live b (k.live b x)
  cte := by
    rcases k.cte with e | ⟨e, w, hw⟩
    · exact h.cte.imp e.trans fun x => ⟨e.trans x.1, x.2⟩
    · rcases h.cte with f | ⟨f, -⟩
      · exact .inr ⟨e, w, f ▸ hw⟩
      · rw [f] at hw; cases hw
  writing := k.writing.trans h.writing
  filled := h.filled.trans k.filled
  held := h.held.trans k.held
  signal n := ⟨(k.signal n).1.trans (h.signal n).1, (k.signal n).2.trans (h.signal n).2⟩
  entry e := by
    rcases h.entry e with he | ⟨hn, x, hx, he⟩
    · rw [← he]; exact k.entry e
    · rcases k.entry e with ke | ⟨kn, -⟩
      · exact .inr ⟨hn, x, hx, ke.trans he⟩
      · exact absurd (by rw [he]) kn
  fire e x := h.fire e (k.fire e x)

theorem ite {p : Prop} [Decidable p] (h : p → Halting s t) (k : ¬ p → Halting s u) : Halting s (if p then t else u) := by
  split
  · exact h ‹_›
  · exact k ‹_›

theorem foldl {α : Type} (l : List α) {f : State → α → State} (h : ∀ s x, Halting s (f s x)) (s : State) :
    Halting s (l.foldl f s) := by
  induction l generalizing s with
  | nil => exact .refl s
  | cons x l ih => exact (h s x).trans (ih _)

theorem forEach {α : Type} (l : List α) {f : α → State → State} (h : ∀ x s, Halting s (f x s)) (s : State) :
    Halting s (Machine.forEach l f s) := by
  induction l generalizing s with
  | nil => exact .refl s
  | cons x l ih => exact (h x s).trans (ih _)

variable (h : Halting s t)
include h

theorem dev : t.dev = s.dev := by rw [← h.rest]; rfl
theorem enable : t.enable = s.enable := by rw [← h.rest]; rfl
theorem faultCode : t.faultCode = s.faultCode := by rw [← h.rest]; rfl
theorem faultSource : t.faultSource = s.faultSource := by rw [← h.rest]; rfl
theorem rings : t.rings = s.rings := by rw [← h.rest]; rfl
theorem cpl : t.cpl = s.cpl := by rw [← h.rest]; rfl
theorem moderator : t.moderator = s.moderator := by rw [← h.rest]; rfl
theorem outs : t.outs = s.outs := by rw [← h.rest]; rfl
theorem banks : t.banks = s.banks := by rw [← h.rest]; rfl
theorem lines : t.lines = s.lines := by rw [← h.rest]; rfl
theorem time : t.time = s.time := by rw [← h.rest]; rfl
theorem ring (r : RingNo) : t.ring r = s.ring r := by unfold State.ring; rw [h.rings]
theorem line (l : Line) : t.line l = s.line l := by unfold State.line; rw [h.lines]

/-- Where nothing can be placed, nothing becomes placeable. -/
theorem placing (k : t.active = true ∧ 0 < t.queue.free) : s.active = true ∧ 0 < s.queue.free := by
  have hd : t.active = s.active := by unfold State.active; rw [h.dev]
  have hh := h.held
  rw [free_pos] at k ⊢
  exact ⟨hd ▸ k.1, by omega⟩

/-- An arrival is kept or withdrawn. -/
theorem arrived (b : Axis) (e : EntryNo) (k : inSet b (s.entry e).arrived = false) : inSet b (t.entry e).arrived = false := by
  rcases h.entry e with he | ⟨-, x, -, he⟩
  · rw [he]; exact k
  · rw [he]; simp [inSet]

theorem rdvOk (k : rdvOk s) : rdvOk t := by
  intro e
  rcases h.entry e with he | ⟨-, x, hx, he⟩
  · rw [he]; exact k e
  · rw [he]
    refine ⟨by simp, fun _ => rfl, fun hc => ?_⟩
    rcases hx with rfl | rfl
    · exact (k e).2.2 hc
    · cases hc

end Halting

/-- No entry holds the arrival of an axis. -/
def Unarrived (s : State) (b : Axis) : Prop := ∀ e, inSet b (s.entry e).arrived = false

theorem Halting.unarrived {s t : State} (h : Halting s t) {b : Axis} (k : Unarrived s b) : Unarrived t b :=
  fun e => h.arrived b e (k e)

/-! ### An axis that a halt does not reach -/

/-- The record of a halt notice. -/
def haltRecord (b : Axis) (r : HaltReason) (second : Option HaltReason) (p v : Word) (i : Time) : Completion :=
  { kind := .axisHalted, ring := ringByte b, seq := 0, tag := 0, status := r.code, second := reasonCode second
    pos := p, aux := v, time := i, notify := true }

/-- What the halts of other axes leave of an axis: at most it claims its place, and a notice of its own is
owed on or placed. -/
structure Bystander (b : Axis) (s t : State) : Prop where
  seq : t.seq b = s.seq b ∨ (s.seq b).sq = .wait .cond ∧ t.seq b = waitsWith (s.seq b) .waitStart .place
  mg : ∃ v, t.mg b = { s.mg b with watchers := v }
  claim : Claim.axis b ∈ t.claims → Claim.axis b ∈ s.claims ∨ (s.seq b).sq = .wait .cond
  notice : ∀ r second p v i, Owed.axisHalted b r second p v i ∈ s.owed → Owed.axisHalted b r second p v i ∈ t.owed ∨
    (s.active = true ∧ 0 < s.queue.free) ∧ haltRecord b r second p v i ∈ t.queue.filled

namespace Bystander

variable {b : Axis} {s t u : State}

theorem refl (b : Axis) (s : State) : Bystander b s s :=
  ⟨.inl rfl, ⟨_, rfl⟩, .inl, fun _ _ _ _ _ h => .inl h⟩

theorem trans (hst : Halting s t) (htu : Halting t u) (h : Bystander b s t) (k : Bystander b t u) : Bystander b s u where
  seq := by
    rcases h.seq with e | ⟨hq, e⟩
    · rw [← e]; exact k.seq
    · rcases k.seq with f | ⟨hq', -⟩
      · exact .inr ⟨hq, f.trans e⟩
      · rw [e] at hq'; cases hq'
  mg := by
    obtain ⟨v, hv⟩ := h.mg
    obtain ⟨w, hw⟩ := k.mg
    exact ⟨w, by rw [hw, hv]⟩
  claim hc := by
    rcases k.claim hc with h1 | h1
    · exact h.claim h1
    · rcases h.seq with e | ⟨hq, -⟩
      · exact .inr (e ▸ h1)
      · exact .inr hq
  notice r second p v i ho := by
    rcases h.notice r second p v i ho with h1 | ⟨hp, h1⟩
    · exact (k.notice r second p v i h1).imp_right fun x => ⟨hst.placing x.1, x.2⟩
    · exact .inr ⟨hp, htu.filled.mem h1⟩

/-- An axis whose candidate does not wait on a condition is left as it is. -/
theorem seq_eq (h : Bystander b s t) (hq : (s.seq b).sq ≠ .wait .cond) : t.seq b = s.seq b :=
  h.seq.resolve_right fun k => hq k.1

theorem foldl {l : List Axis} {f : State → Axis → State} (hh : ∀ s x, Halting s (f s x))
    (h : ∀ s x, x ∈ l → Unarrived s b → Bystander b s (f s x)) :
    ∀ s : State, Unarrived s b → Bystander b s (l.foldl f s) := by
  induction l with
  | nil => exact fun s _ => .refl b s
  | cons x l ih =>
    intro s hs
    exact trans (hh s x) (Halting.foldl l hh _) (h s x (by simp) hs)
      (ih (fun s y hy => h s y (List.mem_cons_of_mem _ hy)) _ ((hh s x).unarrived hs))

end Bystander

end Sys2Proof.Proofs

/-! The breaking of rendezvous entries (R46, R47). -/

namespace Sys2Proof.Proofs

open Sys2Proof.Machine Sys2Proof.Safety Sys2Proof.Laws

/-! ### Sets of axes -/

theorem inSet_axisBit (a b : Axis) : inSet b (axisBit a) = decide (b = a) := by
  revert a b; decide

theorem inSet_without (a b : Axis) (m : BitVec 4) : inSet b (m &&& ~~~axisBit a) = (inSet b m && decide (b ≠ a)) := by
  have h := inSet_axisBit a b
  unfold inSet at h ⊢
  rw [BitVec.getLsbD_and, BitVec.getLsbD_not, h]
  simp [b.isLt]

theorem inSet_or (b : Axis) (m n : BitVec 4) : inSet b (m ||| n) = (inSet b m || inSet b n) := BitVec.getLsbD_or

theorem inSet_zero (b : Axis) : inSet b 0 = false := by simp [inSet]

theorem set_eq_zero_iff (m : BitVec 4) : m = 0 ↔ ∀ b, inSet b m = false := by
  refine ⟨fun h b => h ▸ inSet_zero b, fun h => BitVec.eq_of_getLsbD_eq fun i hi => ?_⟩
  rw [show m.getLsbD i = false from h ⟨i, hi⟩]
  simp

theorem members_nodup (m : BitVec 4) : (members m).Nodup := List.Nodup.filter _ (by decide)

/-! ### A member that halts alone -/

section
variable (s : State) (a : Axis)

/-- The halt of a member concerns its entry. -/
def concerns (e : EntryNo) : Bool :=
  (s.entry e).state == .opened && inSet a (s.entry e).members && (s.entry e).arrived != 0

theorem concerns_iff (e : EntryNo) : concerns s a e = true ↔
    (s.entry e).state = .opened ∧ inSet a (s.entry e).members = true ∧ (s.entry e).arrived ≠ 0 := by
  simp [concerns, and_assoc]

/-- The entry after the halt of a member that it concerns. -/
def brokenBy (x : Rdv) : Rdv :=
  if x.arrived &&& ~~~axisBit a = 0 then { x with arrived := 0 } else { x with state := .broken, arrived := 0 }

/-- The fire claim of an entry is dropped. -/
def dropsFire (p : EntryNo → Bool) (c : Claim) : Bool :=
  match c with
  | .axis _ => true
  | .fire e => !p e

/-- One entry of the pass over the table. -/
def breakStep (p : State × BitVec 4) (e : EntryNo) : State × BitVec 4 :=
  if concerns p.1 a e then
    ((p.1.dropClaim (.fire e)).modEntry e (brokenBy a), p.2 ||| ((p.1.entry e).arrived &&& ~~~axisBit a))
  else p

theorem breakFor_eq : s.breakFor a = allEntries.foldl (breakStep a) (s, 0) := by
  unfold State.breakFor
  refine congrArg (fun f => allEntries.foldl f (s, 0)) (funext fun p => funext fun e => ?_)
  unfold breakStep
  refine if_congr Iff.rfl ?_ rfl
  have hx (f : Rdv → Rdv) (h : brokenBy a (p.1.entry e) = f (p.1.entry e)) :
      (p.1.dropClaim (.fire e)).modEntry e (brokenBy a) = (p.1.dropClaim (.fire e)).modEntry e f := by
    unfold State.modEntry
    rw [show brokenBy a ((p.1.dropClaim (.fire e)).entry e) = f ((p.1.dropClaim (.fire e)).entry e) from h]
  dsimp only
  split
  next h =>
    rw [hx (fun x => { x with arrived := 0 }) (if_pos h), h, show p.2 ||| (0 : BitVec 4) = p.2 from BitVec.or_zero]
  next h => rw [hx (fun x => { x with state := .broken, arrived := 0 }) (if_neg h)]

/-- What the pass over some entries leaves. -/
structure Broken (l : List EntryNo) (p : State × BitVec 4) : Prop where
  rest : { p.1 with claims := s.claims, rdv := s.rdv } = s
  entry : ∀ e, p.1.entry e = if e ∈ l ∧ concerns s a e = true then brokenBy a (s.entry e) else s.entry e
  claims : p.1.claims = s.claims.filter (dropsFire fun e => decide (e ∈ l) && concerns s a e)
  set : ∀ b, inSet b p.2 = true ↔ b ≠ a ∧ ∃ e ∈ l, concerns s a e = true ∧ inSet b (s.entry e).arrived = true

theorem dropClaim_fire (t : State) (e : EntryNo) :
    (t.dropClaim (.fire e)).claims = t.claims.filter (dropsFire (· == e)) := by
  refine List.filter_congr fun c _ => ?_
  cases c with
  | axis b => rfl
  | fire d =>
    by_cases h : d = e
    · simp [dropsFire, h]
    · have hf : Claim.fire d ≠ Claim.fire e := fun k => h (Claim.fire.inj k)
      exact (bne_iff_ne.2 hf).trans (by simp [dropsFire, h])

theorem filter_dropsFire (l : List Claim) (p q : EntryNo → Bool) :
    (l.filter (dropsFire p)).filter (dropsFire q) = l.filter (dropsFire fun e => p e || q e) := by
  rw [List.filter_filter]
  refine List.filter_congr fun c _ => ?_
  cases c with
  | axis b => rfl
  | fire e => simp [dropsFire, Bool.and_comm]

theorem broken_list (l : List EntryNo) (hl : l.Nodup) : Broken s a l (l.foldl (breakStep a) (s, 0)) := by
  induction l using List.reverseRecOn with
  | nil =>
    refine ⟨rfl, fun e => by simp, ?_, fun b => ?_⟩
    · refine (List.filter_eq_self.2 fun c _ => ?_).symm
      cases c <;> simp [dropsFire]
    · exact iff_of_false (by rw [List.foldl_nil, inSet_zero]; simp) (by simp)
  | append_singleton l e ih =>
    obtain ⟨hl, -, hd⟩ := List.nodup_append.1 hl
    have he : e ∉ l := fun k => hd e k e (List.mem_singleton.2 rfl) rfl
    have h := ih hl
    rw [List.foldl_append, List.foldl_cons, List.foldl_nil]
    generalize l.foldl (breakStep a) (s, 0) = p at h
    have hpe : p.1.entry e = s.entry e := by rw [h.entry, if_neg fun k => he k.1]
    have hc : concerns p.1 a e = concerns s a e := by unfold concerns; rw [hpe]
    have mem (d : EntryNo) : d ∈ l ++ [e] ↔ d ∈ l ∨ d = e := by simp
    unfold breakStep
    rw [hc, hpe]
    by_cases hce : concerns s a e = true
    · rw [if_pos hce]
      refine ⟨h.rest, fun d => ?_, ?_, fun b => ?_⟩
      · change ((p.1.dropClaim (.fire e)).modEntry e (brokenBy a)).entry d = _
        rw [entry_modEntry]
        change (if d = e then brokenBy a (p.1.entry e) else p.1.entry d) = _
        rw [hpe, h.entry d]
        by_cases hde : d = e
        · subst hde; simp [hce]
        · simp only [mem, hde, or_false, if_false]
      · change (p.1.dropClaim (.fire e)).claims = _
        rw [dropClaim_fire, h.claims, filter_dropsFire]
        refine congrArg (fun q => s.claims.filter (dropsFire q)) (funext fun d => ?_)
        by_cases hde : d = e
        · subst hde; simp [hce]
        · simp [hde]
      · change inSet b (p.2 ||| ((s.entry e).arrived &&& ~~~axisBit a)) = true ↔ _
        rw [inSet_or, inSet_without, Bool.or_eq_true, h.set b, Bool.and_eq_true, decide_eq_true_eq]
        constructor
        · rintro (⟨hb, d, hd, hx⟩ | ⟨hx, hb⟩)
          · exact ⟨hb, d, (mem d).2 (.inl hd), hx⟩
          · exact ⟨hb, e, (mem e).2 (.inr rfl), hce, hx⟩
        · rintro ⟨hb, d, hd, hx⟩
          rcases (mem d).1 hd with hd | rfl
          · exact .inl ⟨hb, d, hd, hx⟩
          · exact .inr ⟨hx.2, hb⟩
    · rw [if_neg hce]
      refine ⟨h.rest, fun d => ?_, ?_, fun b => ?_⟩
      · rw [h.entry d]
        by_cases hde : d = e
        · subst hde; simp [hce]
        · simp only [mem, hde, or_false]
      · rw [h.claims]
        refine congrArg (fun q => s.claims.filter (dropsFire q)) (funext fun d => ?_)
        by_cases hde : d = e
        · subst hde; simp [hce]
        · simp [hde]
      · rw [h.set b]
        refine and_congr Iff.rfl ⟨fun ⟨d, hd, hx⟩ => ⟨d, (mem d).2 (.inl hd), hx⟩, fun ⟨d, hd, hx⟩ => ?_⟩
        rcases (mem d).1 hd with hd | rfl
        · exact ⟨d, hd, hx⟩
        · exact absurd hx.1 hce

theorem mem_allEntries (e : EntryNo) : e ∈ allEntries := by revert e; decide

theorem breakFor_broken : Broken s a allEntries (s.breakFor a) := by
  rw [breakFor_eq]
  exact broken_list s a allEntries (by decide)

theorem entry_breakFor (e : EntryNo) :
    (s.breakFor a).1.entry e = if concerns s a e = true then brokenBy a (s.entry e) else s.entry e := by
  rw [(breakFor_broken s a).entry e]
  simp only [mem_allEntries, true_and]

theorem claims_breakFor : (s.breakFor a).1.claims = s.claims.filter (dropsFire (concerns s a)) := by
  rw [(breakFor_broken s a).claims]
  simp only [mem_allEntries, decide_true, Bool.true_and]

/-- The axes that the broken entries return (R46, R154). -/
theorem mem_breakFor (b : Axis) : inSet b (s.breakFor a).2 = true ↔ b ≠ a ∧ ∃ e, (s.entry e).state = .opened ∧
    inSet a (s.entry e).members = true ∧ inSet b (s.entry e).arrived = true := by
  rw [(breakFor_broken s a).set b]
  refine and_congr Iff.rfl ⟨fun ⟨e, _, hc, hb⟩ => ?_, fun ⟨e, ho, hm, hb⟩ => ⟨e, mem_allEntries e, ?_, hb⟩⟩
  · obtain ⟨ho, hm, -⟩ := (concerns_iff s a e).1 hc
    exact ⟨e, ho, hm, hb⟩
  · refine (concerns_iff s a e).2 ⟨ho, hm, fun h0 => ?_⟩
    rw [h0, inSet_zero] at hb
    cases hb

theorem breakFor_eta : (s.breakFor a).1 = { s with claims := (s.breakFor a).1.claims, rdv := (s.breakFor a).1.rdv } := by
  have h := (breakFor_broken s a).rest
  generalize (s.breakFor a).1 = u at h
  rw [← h]

end

/-! ### A common cause -/

section
variable (s : State) (m : BitVec 4)

/-- One entry of the pass over the table. -/
def commonStep (e : EntryNo) (s : State) : State :=
  if (s.entry e).arrived &&& m = 0 then s
  else (s.dropClaim (.fire e)).modEntry e fun x => { x with state := .broken, arrived := 0 }

theorem breakCommon_eq : s.breakCommon m = forEach allEntries (commonStep m) s := rfl

theorem entry_commonStep (d e : EntryNo) : (commonStep m e s).entry d =
    if d = e ∧ (s.entry e).arrived &&& m ≠ 0 then { s.entry d with state := .broken, arrived := 0 } else s.entry d := by
  unfold commonStep
  by_cases h : (s.entry e).arrived &&& m = 0
  · rw [if_pos h, if_neg fun k => k.2 h]
  · rw [if_neg h, entry_modEntry]
    by_cases hd : d = e
    · subst hd
      rw [if_pos rfl, if_pos ⟨rfl, h⟩]
      rfl
    · rw [if_neg hd, if_neg fun k => hd k.1]
      rfl

theorem entry_commonSteps (l : List EntryNo) (e : EntryNo) : ∀ s : State, (forEach l (commonStep m) s).entry e =
    if e ∈ l ∧ (s.entry e).arrived &&& m ≠ 0 then { s.entry e with state := .broken, arrived := 0 } else s.entry e := by
  induction l with
  | nil => intro s; simp
  | cons d l ih =>
    intro s
    rw [forEach_cons, ih, entry_commonStep]
    by_cases hd : e = d ∧ (s.entry d).arrived &&& m ≠ 0
    · rw [if_pos hd]
      obtain ⟨rfl, hm⟩ := hd
      rw [if_neg (by simp), if_pos ⟨List.mem_cons_self, hm⟩]
    · rw [if_neg hd]
      refine if_congr ⟨fun k => ⟨List.mem_cons_of_mem _ k.1, k.2⟩, fun k => ⟨?_, k.2⟩⟩ rfl rfl
      rcases List.mem_cons.1 k.1 with rfl | h
      · exact absurd ⟨rfl, k.2⟩ hd
      · exact h

theorem entry_breakCommon (e : EntryNo) : (s.breakCommon m).entry e = if (s.entry e).arrived &&& m = 0 then s.entry e
    else { s.entry e with state := .broken, arrived := 0 } := by
  rw [breakCommon_eq, entry_commonSteps]
  by_cases h : (s.entry e).arrived &&& m = 0
  · rw [if_neg fun k => k.2 h, if_pos h]
  · rw [if_pos ⟨mem_allEntries e, h⟩, if_neg h]

end

end Sys2Proof.Proofs

/-! The steps of a halt event (R97) keep what halts keep, and leave the axes they do not reach. -/

namespace Sys2Proof.Proofs

open Sys2Proof.Machine Sys2Proof.Safety Sys2Proof.Laws

/-! ### One axis -/

/-- A state of the sequencer in which a halt event is taken (R97). -/
def LiveSq (q : SqState) : Prop := q = .empty ∨ (∃ c, q = .wait c) ∨ q = .run

theorem live_iff (s : State) (a : Axis) : live s a ↔ LiveSq (s.seq a).sq := Iff.rfl

section
variable (s : State) (a b : Axis)

theorem halting_modSeq (f : Seq → Seq) (hb : (f (s.seq a)).lineNeg = (s.seq a).lineNeg ∧
    (f (s.seq a)).linePos = (s.seq a).linePos) (hl : LiveSq (f (s.seq a)).sq → LiveSq (s.seq a).sq) :
    Halting s (s.modSeq a f) :=
  { Halting.refl s with
    rest := rfl
    cfg := fun b => cfg_modSeq ..
    fbm := fun b => fbm_modSeq ..
    pos := fun b => by rw [mg_modSeq]
    watcher := fun w b => .inl (by rw [mg_modSeq])
    block := fun b => by
      rw [seq_modSeq]
      split
      next h => subst h; exact hb
      next => exact ⟨rfl, rfl⟩
    live := fun b h => by
      rw [live_iff, seq_modSeq] at h
      split at h
      next e => subst e; exact hl h
      next => exact h }

theorem halting_modMg (f : MG → MG) (hp : (f (s.mg a)).pos = (s.mg a).pos)
    (hw : ∀ b, (f (s.mg a)).watchers.get b = (s.mg a).watchers.get b ∨ (f (s.mg a)).watchers.get b = none) :
    Halting s (s.modMg a f) :=
  { Halting.refl s with
    rest := rfl
    cfg := fun b => cfg_modMg ..
    fbm := fun b => fbm_modMg ..
    pos := fun b => by
      rw [mg_modMg]
      split
      next h => subst h; exact hp
      next => rfl
    watcher := fun w b => by
      rw [mg_modMg]
      split
      next h => subst h; exact hw b
      next => exact .inl rfl
    block := fun b => by rw [seq_modMg]; exact ⟨rfl, rfl⟩
    live := fun b h => by rw [live_iff, seq_modMg] at h; exact h }

/-- What leaves the sequencer of an axis and the lists as they were. -/
theorem Bystander.of_same {b : Axis} {s t : State} (hq : t.seq b = s.seq b) (hm : ∃ v, t.mg b = { s.mg b with watchers := v })
    (hc : Claim.axis b ∈ t.claims → Claim.axis b ∈ s.claims) (ho : t.owed = s.owed) : Bystander b s t :=
  ⟨.inl hq, hm, fun h => .inl (hc h), fun _ _ _ _ _ h => .inl (ho ▸ h)⟩

theorem bystander_modSeq (f : Seq → Seq) (h : b ≠ a) : Bystander b s (s.modSeq a f) :=
  .of_same (by rw [seq_modSeq, if_neg h]) ⟨_, mg_modSeq ..⟩ id rfl

theorem bystander_modMg (f : MG → MG) (h : b ≠ a) : Bystander b s (s.modMg a f) :=
  .of_same (seq_modMg ..) ⟨_, by rw [mg_modMg, if_neg h]⟩ id rfl

/-! ### The lists -/

theorem halting_lists {q : Queue} {o : List Owed} {m : BitVec 16} {k : Vector CapUnit 4}
    (hw : q.writing = s.queue.writing) (hf : s.queue.filled <+: q.filled) (hh : s.queue.held ≤ q.held) :
    Halting s { s with queue := q, owed := o, overflowMask := m, caps := k } :=
  { Halting.refl s with
    rest := rfl
    writing := hw
    filled := hf
    held := hh }

theorem halting_dropClaim (c : Claim) : Halting s (s.dropClaim c) :=
  { Halting.refl s with
    rest := rfl
    fire := fun _ h => (List.mem_filter.1 h).1 }

theorem bystander_dropClaim (c : Claim) : Bystander b s (s.dropClaim c) :=
  .of_same rfl ⟨_, rfl⟩ (fun h => (List.mem_filter.1 h).1) rfl

theorem halting_fill (h : Holder) (c : Completion) : Halting s (s.fill h c) := by
  unfold State.fill
  refine .ite (fun hm => ?_) fun _ => .refl s
  refine halting_lists s rfl (List.prefix_append _ _) ?_
  have := List.length_erase_of_mem hm
  have := List.length_pos_of_mem hm
  simp only [Queue.held, List.length_append, List.length_cons, List.length_nil]
  omega

theorem bystander_fill (h : Holder) (c : Completion) : Bystander b s (s.fill h c) := by
  unfold State.fill
  split
  · exact .of_same rfl ⟨_, rfl⟩ id rfl
  · exact .refl b s

end

/-! ### Notices -/

section
variable (s : State) (a b : Axis)

/-- The placement of the first notice, where a place is FREE. -/
theorem placeFirstOwed_halting (hf : 0 < s.queue.free) : Halting s s.placeFirstOwed := by
  unfold State.placeFirstOwed
  split
  · exact .refl s
  next o rest ho =>
    dsimp only
    split
    next c hc =>
      rw [placeRecord_free { s with owed := rest } c hf]
      obtain ⟨v, m, h⟩ := sourcePlaced_eq { s with owed := rest, queue := { s.queue with filled := s.queue.filled ++ [c] } } o
      rw [h]
      refine halting_lists s rfl (List.prefix_append _ _) ?_
      simp only [Queue.held, List.length_append]
      omega
    · exact halting_lists (k := s.caps) (m := s.overflowMask) s rfl (List.prefix_refl _) (Nat.le_refl _)

theorem placeFirstOwed_bystander (ha : s.active = true) (hf : 0 < s.queue.free) : Bystander b s s.placeFirstOwed := by
  unfold State.placeFirstOwed
  split
  · exact .refl b s
  next o rest ho =>
    dsimp only
    split
    next c hc =>
      rw [placeRecord_free { s with owed := rest } c hf]
      obtain ⟨v, m, h⟩ := sourcePlaced_eq { s with owed := rest, queue := { s.queue with filled := s.queue.filled ++ [c] } } o
      rw [h]
      refine ⟨.inl rfl, ⟨_, rfl⟩, .inl, fun r second p v i hm => ?_⟩
      rw [ho] at hm
      rcases List.mem_cons.1 hm with rfl | hm
      · refine .inr ⟨⟨ha, hf⟩, List.mem_append_right _ (List.mem_singleton.2 ?_)⟩
        exact Option.some.inj hc
      · exact .inl hm
    next hc =>
      refine ⟨.inl rfl, ⟨_, rfl⟩, .inl, fun r second p v i hm => ?_⟩
      rw [ho] at hm
      rcases List.mem_cons.1 hm with rfl | hm
      · cases hc
      · exact .inl hm

theorem serveOwedUpTo_halts (n : Nat) : ∀ s : State, Halting s (serveOwedUpTo n s) ∧ Bystander b s (serveOwedUpTo n s) := by
  induction n with
  | zero => exact fun s => ⟨.refl s, .refl b s⟩
  | succ n ih =>
    intro s
    rw [serveOwedUpTo]
    by_cases h : (s.active && decide (0 < s.queue.free) && !s.owed.isEmpty) = true
    · rw [if_pos h]
      simp only [Bool.and_eq_true, decide_eq_true_eq] at h
      obtain ⟨⟨ha, hf⟩, -⟩ := h
      obtain ⟨h1, h2⟩ := ih s.placeFirstOwed
      have k := placeFirstOwed_halting s hf
      exact ⟨k.trans h1, (placeFirstOwed_bystander s b ha hf).trans k h1 h2⟩
    · rw [if_neg h]
      exact ⟨.refl s, .refl b s⟩

theorem halting_owed (o : List Owed) : Halting s { s with owed := o } :=
  halting_lists (k := s.caps) (m := s.overflowMask) (q := s.queue) s rfl (List.prefix_refl _) (Nat.le_refl _)

theorem halting_owe (o : Owed) : Halting s (s.owe o) :=
  (halting_owed s (s.owed ++ [o])).trans (serveOwedUpTo_halts 0 _ _).1

theorem bystander_owe (o : Owed) : Bystander b s (s.owe o) := by
  have h : Bystander b s { s with owed := s.owed ++ [o] } :=
    ⟨.inl rfl, ⟨_, rfl⟩, .inl, fun _ _ _ _ _ h => .inl (List.mem_append_left _ h)⟩
  obtain ⟨h1, h2⟩ := serveOwedUpTo_halts b (s.owed ++ [o]).length { s with owed := s.owed ++ [o] }
  exact h.trans (halting_owed s _) h1 h2

theorem halting_secondReason (r : HaltReason) : Halting s (s.secondReason a r) := halting_owed s _

theorem addSecond_other {a b : Axis} (h : b ≠ a) (r r' : HaltReason) (second : Option HaltReason) (p v : Word) (i : Time) :
    addSecond a r (.axisHalted b r' second p v i) = .axisHalted b r' second p v i := by
  unfold addSecond
  split
  next heq =>
    cases heq
    exact if_neg (Ne.symm h)
  next => rfl

theorem bystander_secondReason (r : HaltReason) (h : b ≠ a) : Bystander b s (s.secondReason a r) :=
  ⟨.inl rfl, ⟨_, rfl⟩, .inl, fun r' second p v i hm =>
    .inl (List.mem_map.2 ⟨_, hm, addSecond_other h r r' second p v i⟩)⟩

theorem halting_oweHalted (r : HaltReason) (p v : Int) : Halting s (s.oweHalted a r p v) :=
  .ite (fun _ => halting_secondReason s a r) fun _ => halting_owe s _

theorem bystander_oweHalted (r : HaltReason) (p v : Int) (h : b ≠ a) : Bystander b s (s.oweHalted a r p v) := by
  unfold State.oweHalted
  split
  · exact bystander_secondReason s a b r h
  · exact bystander_owe s b _

end

/-! ### Claims and lists of waiters -/

section
variable (s : State) (a b : Axis)

theorem halting_claims (c : List Claim) (h : ∀ e, Claim.fire e ∈ c → Claim.fire e ∈ s.claims) : Halting s { s with claims := c } :=
  { Halting.refl s with
    rest := rfl
    fire := h }

theorem halting_meet (c : Axis) : Halting s (s.meet c) := by
  unfold State.meet
  refine .ite (fun hq => ?_) fun _ => .refl s
  have h : Halting s ((s.setProgress c .waitStart).setSq c (.wait .place)) := by
    refine Halting.trans (halting_modSeq s c (fun q => q.setHead (.pending .waitStart)) ?_ ?_)
      (halting_modSeq _ c (fun x => { x with sq := .wait .place }) ⟨rfl, rfl⟩ fun _ => ?_)
    · obtain ⟨l, hl⟩ := setHead_eq (s.seq c) (.pending .waitStart)
      rw [hl]
      exact ⟨rfl, rfl⟩
    · rw [sq_setHead]
      exact id
    · rw [seq_modSeq, if_pos rfl, sq_setHead, hq]
      exact .inr (.inl ⟨_, rfl⟩)
  refine h.trans (halting_claims _ _ fun e he => ?_)
  rcases List.mem_append.1 he with he | he
  · exact he
  · cases List.mem_singleton.1 he

theorem bystander_meet (c : Axis) : Bystander b s (s.meet c) := by
  refine ⟨?_, ⟨_, mg_meet s c b⟩, fun h => ?_, fun _ _ _ _ _ h => .inl ?_⟩
  · rw [seq_meet]
    by_cases hb : b = c ∧ (s.seq c).sq = .wait .cond
    · obtain ⟨rfl, hq⟩ := hb
      exact .inr ⟨hq, if_pos ⟨rfl, hq⟩⟩
    · exact .inl (if_neg hb)
  · rw [claims_meet] at h
    rcases List.mem_append.1 h with h | h
    · exact .inl h
    · split at h
      next hq => exact .inr (by rw [Claim.axis.inj (List.mem_singleton.1 h)]; exact hq)
      next => cases h
  · obtain ⟨v, k, hk⟩ := meet_eq s c
    rw [hk]
    exact h

theorem halting_unlisted (n : SignalNo) : Halting s (unlisted s a n) :=
  { Halting.refl s with
    rest := rfl
    signal := fun m => by
      rw [signal_unlisted]
      split
      next h => subst h; exact ⟨rfl, List.filter_sublist⟩
      next => exact ⟨rfl, List.Sublist.refl _⟩ }

theorem bystander_unlisted (n : SignalNo) : Bystander b s (unlisted s a n) := .of_same rfl ⟨_, rfl⟩ id rfl

theorem halting_leaveList (n : SignalNo) : Halting s (State.leaveList a n s) := by
  rw [leaveList_eq]
  split
  · exact (halting_unlisted s a n).trans (halting_meet _ _)
  · exact halting_unlisted s a n

theorem bystander_leaveList (n : SignalNo) : Bystander b s (State.leaveList a n s) := by
  rw [leaveList_eq]
  split
  · exact (bystander_unlisted s a b n).trans (halting_unlisted s a n) (halting_meet _ _) (bystander_meet _ b _)
  · exact bystander_unlisted s a b n

/-- Both relations over a list of steps. -/
theorem bystander_forEach {α : Type} {f : α → State → State} (hh : ∀ x s, Halting s (f x s))
    (h : ∀ x s, Bystander b s (f x s)) (l : List α) : ∀ s : State, Bystander b s (forEach l f s) := by
  induction l with
  | nil => exact fun s => .refl b s
  | cons x l ih => exact fun s => (h x s).trans (hh x s) (Halting.forEach l hh _) (ih _)

theorem halting_setWatcher (w : Axis) : Halting s (s.setWatcher w b none) :=
  halting_modMg s w _ rfl fun c => by
    rw [setAt_get]
    split
    · exact .inr rfl
    · exact .inl rfl

theorem bystander_setWatcher (w c : Axis) : Bystander b s (s.setWatcher w c none) :=
  .of_same (seq_modMg ..) (by
    rw [mg_setWatcher]
    split
    · exact ⟨_, rfl⟩
    · exact ⟨_, rfl⟩) id rfl

theorem halting_removeWatchers : Halting s (s.removeWatchers a) :=
  Halting.forEach _ (fun w s => halting_setWatcher s a w) s

theorem bystander_removeWatchers : Bystander b s (s.removeWatchers a) :=
  bystander_forEach b (fun w s => halting_setWatcher s a w) (fun w s => bystander_setWatcher s b w a) _ s

/-- The axis has left every list and every watcher set, and its claim is dropped. -/
def released : State := ((s.dropClaim (.axis a)).leaveWaiters a).removeWatchers a

theorem halting_leaveWaiters : Halting s (s.leaveWaiters a) := by
  unfold State.leaveWaiters
  exact Halting.forEach _ (fun n s => halting_leaveList s a n) s

theorem bystander_leaveWaiters : Bystander b s (s.leaveWaiters a) := by
  unfold State.leaveWaiters
  exact bystander_forEach b (fun n s => halting_leaveList s a n) (fun n s => bystander_leaveList s a b n) _ s

theorem withdraw_eq : s.withdraw a = (released s a).modSeq a Seq.disarm := by
  unfold State.withdraw released
  exact rfl

theorem halting_released : Halting s (released s a) := by
  unfold released
  refine (halting_dropClaim s (.axis a)).trans ?_
  generalize s.dropClaim (.axis a) = t
  exact (halting_leaveWaiters t a).trans (halting_removeWatchers _ a)

theorem bystander_released : Bystander b s (released s a) := by
  unfold released
  have h := halting_dropClaim s (.axis a)
  have k := bystander_dropClaim s b (.axis a)
  generalize s.dropClaim (.axis a) = t at h k ⊢
  have h' := halting_leaveWaiters t a
  have k' := k.trans h h' (bystander_leaveWaiters t a b)
  generalize t.leaveWaiters a = u at h' k' ⊢
  exact k'.trans (h.trans h') (halting_removeWatchers u a) (bystander_removeWatchers u a b)

theorem halting_disarm : Halting s (s.modSeq a Seq.disarm) := by
  exact halting_modSeq s a _ ⟨rfl, rfl⟩ id

theorem halting_withdraw : Halting s (s.withdraw a) := by
  rw [withdraw_eq]
  exact (halting_released s a).trans (halting_disarm _ a)

theorem bystander_withdraw (h : b ≠ a) : Bystander b s (s.withdraw a) := by
  rw [withdraw_eq]
  exact (bystander_released s a b).trans (halting_released s a) (halting_disarm _ a) (bystander_modSeq _ a b _ h)

/-! ### Entries and the BARRIER -/

theorem brokenBy_eq (x : Rdv) : ∃ y, (y = x.state ∨ y = .broken) ∧ brokenBy a x = { x with state := y, arrived := 0 } := by
  unfold brokenBy
  split
  · exact ⟨x.state, .inl rfl, rfl⟩
  · exact ⟨.broken, .inr rfl, rfl⟩

theorem Halting.of_entries {s t : State} (h : t = { s with claims := t.claims, rdv := t.rdv })
    (he : ∀ e, t.entry e = s.entry e ∨ (s.entry e).arrived ≠ 0 ∧
      ∃ x, (x = (s.entry e).state ∨ x = .broken) ∧ t.entry e = { s.entry e with state := x, arrived := 0 })
    (hf : ∀ e, Claim.fire e ∈ t.claims → Claim.fire e ∈ s.claims) : Halting s t := by
  generalize t.claims = c, t.rdv = v at h hf
  subst h
  exact { Halting.refl s with
    rest := rfl
    entry := he
    fire := hf }

theorem halting_breakFor : Halting s (s.breakFor a).1 := by
  refine .of_entries (breakFor_eta s a) (fun e => ?_) fun e h => ?_
  · rw [entry_breakFor]
    by_cases h : concerns s a e = true
    · rw [if_pos h]
      exact .inr ⟨((concerns_iff s a e).1 h).2.2, brokenBy_eq a (s.entry e)⟩
    · exact .inl (if_neg h)
  · rw [claims_breakFor] at h
    exact (List.mem_filter.1 h).1

theorem Bystander.of_entries {s t : State} {b : Axis} (h : t = { s with claims := t.claims, rdv := t.rdv })
    (hc : ∀ c ∈ t.claims, c ∈ s.claims) : Bystander b s t := by
  generalize t.claims = c, t.rdv = v at h hc
  subst h
  exact .of_same rfl ⟨_, rfl⟩ (hc _) rfl

theorem bystander_breakFor : Bystander b s (s.breakFor a).1 := by
  refine .of_entries (breakFor_eta s a) fun c h => ?_
  rw [claims_breakFor] at h
  exact (List.mem_filter.1 h).1

theorem halting_commonStep (m : BitVec 4) (e : EntryNo) : Halting s (commonStep m e s) := by
  refine .of_entries ?_ (fun d => ?_) fun d h => ?_
  · unfold commonStep
    split <;> rfl
  · rw [entry_commonStep]
    split
    next h =>
      obtain ⟨rfl, hm⟩ := h
      refine .inr ⟨fun h0 => hm ?_, .broken, .inr rfl, rfl⟩
      rw [h0]
      exact BitVec.zero_and
    next => exact .inl rfl
  · unfold commonStep at h
    split at h
    · exact h
    · exact (List.mem_filter.1 h).1

theorem bystander_commonStep (m : BitVec 4) (e : EntryNo) : Bystander b s (commonStep m e s) := by
  unfold commonStep
  split
  · exact .refl b s
  · exact .of_same rfl ⟨_, rfl⟩ (fun h => (List.mem_filter.1 h).1) rfl

theorem halting_breakCommon (m : BitVec 4) : Halting s (s.breakCommon m) :=
  Halting.forEach _ (fun e s => halting_commonStep s m e) s

theorem bystander_breakCommon (m : BitVec 4) : Bystander b s (s.breakCommon m) :=
  bystander_forEach b (fun e s => halting_commonStep s m e) (fun e s => bystander_commonStep s b m e) _ s

theorem halting_endCommand {w : BarrierRec} (hw : s.cte = .barrier w) (x y : BitVec 16) (n : Bool) (z : Answer) :
    Halting s (s.endCommand x y n z) := by
  have h := halting_fill s .cte (cmdDone s x y n z)
  exact { h with
    rest := h.rest
    cte := .inr ⟨rfl, w, hw⟩ }

theorem bystander_endCommand (x y : BitVec 16) (n : Bool) (z : Answer) : Bystander b s (s.endCommand x y n z) := by
  have h := bystander_fill s b .cte (cmdDone s x y n z)
  exact ⟨h.seq, h.mg, h.claim, h.notice⟩

theorem halting_barrierHalt (r : HaltReason) : Halting s (s.barrierHalt a r) := by
  unfold State.barrierHalt
  split
  next w hw => exact .ite (fun _ => halting_endCommand s hw _ _ _ _) fun _ => .refl s
  next => exact .refl s

theorem bystander_barrierHalt (r : HaltReason) : Bystander b s (s.barrierHalt a r) := by
  unfold State.barrierHalt
  split
  · split
    · exact bystander_endCommand s b _ _ _ _
    · exact .refl b s
  · exact .refl b s

end

end Sys2Proof.Proofs

/-! The halt event (R97) step by step, what it leaves of its own axis and of the axes it does not reach. -/

namespace Sys2Proof.Proofs

open Sys2Proof.Machine Sys2Proof.Safety Sys2Proof.Laws

/-! ### The steps -/

section
variable (s : State) (a : Axis) (r : HaltReason) (k : StopKind) (common : Bool)

/-- The reason is recorded and the MG stops (R97 steps 1 and 2). -/
def haltStop : State :=
  (s.modSeq a fun q => { q with reason := some r }).modMg a fun m => m.stop k (s.cfg a).stopDecel

/-- The record or the notice, and the withdrawals (R97 steps 3 and 4). -/
def haltFirst : State := ((haltStop s a r k).abortOrOwe s a r).withdraw a

/-- The rendezvous entries, and the axes that follow with GROUP (R46). -/
def haltBreak : State × BitVec 4 :=
  if common then (haltFirst s a r k, 0) else (haltFirst s a r k).breakFor a

/-- The halt event of the axis itself, without the GROUP halts behind it. -/
def haltSelf : State :=
  let p := (haltBreak s a r k common).1
  (p.setSq a (if (p.mg a).isStill then .halted else .halting)).barrierHalt a r

theorem haltEvent_succ (n : Nat) : haltEvent (n + 1) a r k common s =
    (members (haltBreak s a r k common).2).foldl (fun s b => haltEvent n b .group .soft false s)
      (haltSelf s a r k common) := rfl

theorem stop_keeps (m : MG) (d : Nat) : (m.stop k d).pos = m.pos ∧ (m.stop k d).watchers = m.watchers := by
  cases k with
  | hard => exact ⟨rfl, rfl⟩
  | soft =>
    change (m.softStop d).pos = m.pos ∧ (m.softStop d).watchers = m.watchers
    by_cases h : m.motion = .still
    · rw [softStop_still m d h]; exact ⟨rfl, rfl⟩
    · by_cases h' : m.motion = .stopRamp
      · rw [softStop_ramp m d h']; exact ⟨rfl, rfl⟩
      · rw [softStop_moving m d h h']
        split <;> exact ⟨rfl, rfl⟩

theorem barrierHalt_axes : (s.barrierHalt a r).axes = s.axes := by
  unfold State.barrierHalt
  split
  · split
    · change (s.fill .cte _).axes = s.axes
      unfold State.fill
      split <;> rfl
    · rfl
  · rfl

theorem axis_congr {s t : State} (h : t.axes = s.axes) (b : Axis) : t.seq b = s.seq b ∧ t.mg b = s.mg b := by
  unfold State.seq State.mg State.axis
  rw [h]
  exact ⟨rfl, rfl⟩

theorem seq_barrierHalt (b : Axis) : (s.barrierHalt a r).seq b = s.seq b := (axis_congr (barrierHalt_axes s a r) b).1

theorem mg_barrierHalt (b : Axis) : (s.barrierHalt a r).mg b = s.mg b := (axis_congr (barrierHalt_axes s a r) b).2

/-! ### What the steps change -/

theorem halting_haltStop : Halting s (haltStop s a r k) := by
  have h := stop_keeps k (s.mg a) (s.cfg a).stopDecel
  unfold haltStop
  refine (halting_modSeq s a (fun q => { q with reason := some r }) ⟨rfl, rfl⟩ id).trans (halting_modMg _ a _ ?_ fun b => .inl ?_)
  · rw [mg_modSeq]
    exact h.1
  · rw [mg_modSeq, h.2]

theorem halting_abortOrOwe (s₀ : State) : Halting s (s.abortOrOwe s₀ a r) := by
  unfold State.abortOrOwe
  split
  next e he =>
    have h := (halting_fill s (.axis a) (segAborted s₀ a e r)).trans
      (halting_modSeq _ a (fun q => { q with window := q.window.tail }) ⟨rfl, rfl⟩ id)
    exact .ite (fun _ => h.trans (halting_modSeq _ a _ ⟨rfl, rfl⟩ id)) fun _ => h
  · exact halting_oweHalted s a r _ _

theorem bystander_abortOrOwe (s₀ : State) {b : Axis} (hb : b ≠ a) : Bystander b s (s.abortOrOwe s₀ a r) := by
  unfold State.abortOrOwe
  split
  next e he =>
    have h1 := halting_fill s (.axis a) (segAborted s₀ a e r)
    have h2 := halting_modSeq (s.fill (.axis a) (segAborted s₀ a e r)) a (fun q => { q with window := q.window.tail })
      ⟨rfl, rfl⟩ id
    have h := (bystander_fill s b (.axis a) (segAborted s₀ a e r)).trans h1 h2 (bystander_modSeq _ a b _ hb)
    dsimp only
    split
    · exact h.trans (h1.trans h2) (halting_modSeq _ a _ ⟨rfl, rfl⟩ id) (bystander_modSeq _ a b _ hb)
    · exact h
  · exact bystander_oweHalted s a b r _ _ hb

theorem halting_haltFirst : Halting s (haltFirst s a r k) := by
  unfold haltFirst
  have h := halting_haltStop s a r k
  generalize haltStop s a r k = t at h ⊢
  exact (h.trans (halting_abortOrOwe t a r s)).trans (halting_withdraw _ a)

theorem bystander_haltStop {b : Axis} (hb : b ≠ a) : Bystander b s (haltStop s a r k) := by
  refine .of_same ?_ ⟨(s.mg b).watchers, ?_⟩ id rfl
  · unfold haltStop
    rw [seq_modMg, seq_modSeq, if_neg hb]
  · unfold haltStop
    rw [mg_modMg, if_neg hb, mg_modSeq]

theorem bystander_haltFirst {b : Axis} (hb : b ≠ a) : Bystander b s (haltFirst s a r k) := by
  unfold haltFirst
  have h := halting_haltStop s a r k
  have h' := bystander_haltStop s a r k hb
  generalize haltStop s a r k = t at h h' ⊢
  have i := halting_abortOrOwe t a r s
  have i' := h'.trans h i (bystander_abortOrOwe t a r s hb)
  generalize t.abortOrOwe s a r = u at i i' ⊢
  exact i'.trans (h.trans i) (halting_withdraw u a) (bystander_withdraw u a b hb)

theorem halting_haltBreak : Halting s (haltBreak s a r k common).1 := by
  have h := halting_haltFirst s a r k
  unfold haltBreak
  cases common with
  | true => exact h
  | false => exact h.trans (halting_breakFor _ a)

theorem bystander_haltBreak {b : Axis} (hb : b ≠ a) : Bystander b s (haltBreak s a r k common).1 := by
  have h := halting_haltFirst s a r k
  have h' := bystander_haltFirst s a r k hb
  unfold haltBreak
  cases common with
  | true => exact h'
  | false => exact h'.trans h (halting_breakFor _ a) (bystander_breakFor _ a b)

/-- A halted state in place of a state of the sequencer. -/
theorem halting_setSq {q : SqState} (hq : ¬ LiveSq q) : Halting s (s.setSq a q) := by
  unfold State.setSq
  exact halting_modSeq s a _ ⟨rfl, rfl⟩ fun h => absurd h hq

theorem not_liveSq_halt (still : Bool) : ¬ LiveSq (if still then .halted else .halting) := by
  cases still <;> rintro (h | ⟨_, h⟩ | h) <;> cases h

theorem halting_haltSelf : Halting s (haltSelf s a r k common) := by
  have h := halting_haltBreak s a r k common
  unfold haltSelf
  generalize (haltBreak s a r k common).1 = p at h ⊢
  exact (h.trans (halting_setSq p a (not_liveSq_halt _))).trans (halting_barrierHalt _ a r)

theorem bystander_haltSelf {b : Axis} (hb : b ≠ a) : Bystander b s (haltSelf s a r k common) := by
  have h := halting_haltBreak s a r k common
  have h' := bystander_haltBreak s a r k common hb
  unfold haltSelf
  generalize (haltBreak s a r k common).1 = p at h h' ⊢
  have i := halting_setSq p a (not_liveSq_halt (p.mg a).isStill)
  exact (h'.trans h i (bystander_modSeq p a b _ hb)).trans (h.trans i) (halting_barrierHalt _ a r) (bystander_barrierHalt _ a b r)

end

/-- Every halt event changes only what halts can change. -/
theorem halting_haltEvent (n : Nat) : ∀ (a : Axis) (r : HaltReason) (k : StopKind) (common : Bool) (s : State),
    Halting s (haltEvent n a r k common s) := by
  induction n with
  | zero => exact fun _ _ _ _ s => .refl s
  | succ n ih =>
    intro a r k common s
    rw [haltEvent_succ]
    exact (halting_haltSelf s a r k common).trans (Halting.foldl _ (fun s b => ih b .group .soft false s) _)

section
variable (s : State) (a : Axis) (r : HaltReason) (k : StopKind) (common : Bool)

/-- The axes that follow with GROUP had arrived (R46). -/
theorem mem_haltBreak {b : Axis} (h : b ∈ members (haltBreak s a r k common).2) : common = false ∧ b ≠ a ∧ ∃ e,
    ((haltFirst s a r k).entry e).state = .opened ∧ inSet a ((haltFirst s a r k).entry e).members = true ∧
    inSet b ((haltFirst s a r k).entry e).arrived = true := by
  rw [mem_members] at h
  unfold haltBreak at h
  cases common with
  | true => cases (inSet_zero b).symm.trans h
  | false => exact ⟨rfl, (mem_breakFor _ a b).1 h⟩

theorem haltBreak_unarrived {b : Axis} (h : Unarrived s b) : b ∉ members (haltBreak s a r k common).2 := by
  intro hb
  obtain ⟨-, -, e, -, -, he⟩ := mem_haltBreak s a r k common hb
  rw [(halting_haltFirst s a r k).unarrived h e] at he
  cases he

end

/-- A halt event does not reach an axis that has arrived nowhere. -/
theorem bystander_haltEvent (n : Nat) : ∀ (a : Axis) (r : HaltReason) (k : StopKind) (common : Bool) (s : State) {b : Axis},
    b ≠ a → Unarrived s b → Bystander b s (haltEvent n a r k common s) := by
  induction n with
  | zero => exact fun _ _ _ _ s b _ _ => .refl b s
  | succ n ih =>
    intro a r k common s b hb hu
    rw [haltEvent_succ]
    have h := halting_haltSelf s a r k common
    refine (bystander_haltSelf s a r k common hb).trans h
      (Halting.foldl _ (fun s b => halting_haltEvent n b .group .soft false s) _) ?_
    refine Bystander.foldl (fun s b => halting_haltEvent n b .group .soft false s) (fun u c hc hu' => ?_) _ (h.unarrived hu)
    refine ih c .group .soft false u (fun e => ?_) hu'
    exact haltBreak_unarrived s a r k common hu (e ▸ hc)

end Sys2Proof.Proofs

/-! What a halt event leaves of its own axis, and the causes that reach every axis (R47, R97, R104, R109). -/

namespace Sys2Proof.Proofs

open Sys2Proof.Machine Sys2Proof.Safety Sys2Proof.Laws

/-! ### The axis of a halt event -/

/-- An entry after a halt: a PENDING one is not armed. -/
def disarmedEntry (e : Entry) : Entry := if e.isPending then { e with state := .pending .notArmed } else e

section
variable (s : State) (a : Axis) (r : HaltReason) (k : StopKind) (common : Bool)

/-- The window that a halt event leaves: an active segment has left it, and no entry is armed. -/
def haltedWindow : List Entry :=
  (if (s.seq a).activeEntry.isSome then (s.seq a).window.tail else (s.seq a).window).map disarmedEntry

/-- The position components are kept, or recomputed (R85). -/
def Repositioned (x y : Bool) : Prop :=
  (x = (s.seq a).posNeg ∧ y = (s.seq a).posPos) ∨
  (x = beyondNeg (s.cfg a) (s.mg a).pos ∧ y = beyondPos (s.cfg a) (s.mg a).pos)

/-- The MG as the cause's stop leaves it. -/
def stopped : MG := (s.mg a).stop k (s.cfg a).stopDecel

theorem owe_axes (o : Owed) : (s.owe o).axes = s.axes := by
  obtain ⟨w, l, c, m, h⟩ := owe_eq s o
  rw [h]

theorem oweHalted_axes (p v : Int) : (s.oweHalted a r p v).axes = s.axes := by
  unfold State.oweHalted
  split
  · rfl
  · exact owe_axes s _

theorem fill_axes (h : Holder) (c : Completion) : (s.fill h c).axes = s.axes := by
  unfold State.fill
  split <;> rfl

theorem seq_abortOrOwe (s₀ : State) : ∃ x y, Repositioned s a x y ∧ (s.abortOrOwe s₀ a r).seq a = { s.seq a with
    window := if (s₀.seq a).activeEntry.isSome then (s.seq a).window.tail else (s.seq a).window
    posNeg := x
    posPos := y } := by
  unfold State.abortOrOwe
  split
  next e he =>
    have hq : ((s.fill (.axis a) (segAborted s₀ a e r)).removeHead a).seq a =
        { s.seq a with window := (s.seq a).window.tail } := by
      unfold State.removeHead
      rw [seq_modSeq, if_pos rfl, (axis_congr (fill_axes s _ _) a).1]
    have h := (halting_fill s (.axis a) (segAborted s₀ a e r)).trans
      (halting_modSeq _ a (fun q => { q with window := q.window.tail }) ⟨rfl, rfl⟩ id)
    have hc : ((s.fill (.axis a) (segAborted s₀ a e r)).removeHead a).cfg a = s.cfg a := h.cfg a
    have hp : (((s.fill (.axis a) (segAborted s₀ a e r)).removeHead a).mg a).pos = (s.mg a).pos := h.pos a
    generalize (s.fill (.axis a) (segAborted s₀ a e r)).removeHead a = t at hq hc hp
    rw [he]
    dsimp only [Option.isSome]
    rw [if_pos rfl]
    split
    · refine ⟨beyondNeg (t.cfg a) (t.mg a).pos, beyondPos (t.cfg a) (t.mg a).pos, .inr ?_, ?_⟩
      · rw [hc, hp]
        exact ⟨rfl, rfl⟩
      unfold State.recomputePosBlocks
      rw [seq_modSeq, if_pos rfl, hq]
    · exact ⟨(s.seq a).posNeg, (s.seq a).posPos, .inl ⟨rfl, rfl⟩, hq⟩
  next he =>
    rw [he, if_neg (by decide), (axis_congr (oweHalted_axes s a r _ _) a).1]
    exact ⟨(s.seq a).posNeg, (s.seq a).posPos, .inl ⟨rfl, rfl⟩, rfl⟩

theorem mg_abortOrOwe (s₀ : State) (b : Axis) : (s.abortOrOwe s₀ a r).mg b = s.mg b := by
  unfold State.abortOrOwe
  split
  next e he =>
    have hm : ((s.fill (.axis a) (segAborted s₀ a e r)).removeHead a).mg b = s.mg b := by
      unfold State.removeHead
      rw [mg_modSeq, (axis_congr (fill_axes s _ _) b).2]
    generalize (s.fill (.axis a) (segAborted s₀ a e r)).removeHead a = t at hm
    dsimp only
    split
    · unfold State.recomputePosBlocks
      rw [mg_modSeq, hm]
    · exact hm
  · exact (axis_congr (oweHalted_axes s a r _ _) b).2

theorem seq_leaveWaiters_self : (s.leaveWaiters a).seq a = s.seq a := by
  unfold State.leaveWaiters
  refine forEach_keeps (P := fun t => t.seq a = s.seq a) (fun n t h => ?_) allSignals s rfl
  rw [seq_leaveList, if_neg fun k => nextWaiter_ne t a n k.1 rfl]
  exact h

theorem mg_leaveWaiters (b : Axis) : (s.leaveWaiters a).mg b = s.mg b := by
  unfold State.leaveWaiters
  exact forEach_keeps (P := fun t => t.mg b = s.mg b) (fun n t h => (mg_leaveList t a n b).trans h) allSignals s rfl

theorem seq_removeWatchers (b : Axis) : (s.removeWatchers a).seq b = s.seq b := by
  unfold State.removeWatchers
  exact forEach_keeps (P := fun t => t.seq b = s.seq b) (fun w t h => (seq_modMg ..).trans h) allAxes s rfl

theorem seq_withdraw_self : (s.withdraw a).seq a = { s.seq a with window := (s.seq a).window.map disarmedEntry } := by
  have h : (released s a).seq a = s.seq a := by
    unfold released
    rw [seq_removeWatchers, seq_leaveWaiters_self]
    rfl
  rw [withdraw_eq, seq_modSeq, if_pos rfl, h]
  rfl

theorem mg_withdraw (b : Axis) : (s.withdraw a).mg b = { s.mg b with watchers := setAt (s.mg b).watchers a none } := by
  rw [withdraw_eq, mg_modSeq]
  unfold released
  rw [mg_removeWatchers, mg_leaveWaiters]
  rfl

theorem seq_haltStop : (haltStop s a r k).seq a = { s.seq a with reason := some r } := by
  unfold haltStop
  rw [seq_modMg, seq_modSeq, if_pos rfl]

theorem mg_haltStop (b : Axis) : (haltStop s a r k).mg b = if b = a then stopped s a k else s.mg b := by
  unfold haltStop
  rw [mg_modMg]
  split
  · rw [mg_modSeq]; rfl
  · rw [mg_modSeq]

theorem seq_haltFirst : ∃ x y, Repositioned s a x y ∧ (haltFirst s a r k).seq a =
    { s.seq a with
      reason := some r
      window := haltedWindow s a
      posNeg := x
      posPos := y } := by
  unfold haltFirst
  obtain ⟨x, y, hp, h⟩ := seq_abortOrOwe (haltStop s a r k) a r s
  have hs := halting_haltStop s a r k
  unfold Repositioned at hp
  rw [seq_haltStop, hs.cfg, hs.pos] at hp
  refine ⟨x, y, hp, ?_⟩
  rw [seq_withdraw_self, h, seq_haltStop]
  rfl

theorem mg_haltFirst (b : Axis) : (haltFirst s a r k).mg b =
    let m := if b = a then stopped s a k else s.mg b
    { m with watchers := setAt m.watchers a none } := by
  unfold haltFirst
  rw [mg_withdraw, mg_abortOrOwe, mg_haltStop]

theorem breakFor_axes : (s.breakFor a).1.axes = s.axes := by
  have h := breakFor_eta s a
  generalize (s.breakFor a).1 = t at h
  rw [h]

theorem haltBreak_alone : haltBreak s a r k false = (haltFirst s a r k).breakFor a := if_neg Bool.false_ne_true

theorem haltBreak_common : haltBreak s a r k true = (haltFirst s a r k, 0) := if_pos rfl

theorem haltBreak_axes : (haltBreak s a r k common).1.axes = (haltFirst s a r k).axes := by
  cases common with
  | true => rw [haltBreak_common]
  | false => rw [haltBreak_alone, breakFor_axes]

theorem mg_haltSelf (b : Axis) : (haltSelf s a r k common).mg b =
    let m := if b = a then stopped s a k else s.mg b
    { m with watchers := setAt m.watchers a none } := by
  have h := (axis_congr (haltBreak_axes s a r k common) b).2
  rw [mg_haltFirst] at h
  unfold haltSelf
  dsimp only
  rw [mg_barrierHalt, mg_setSq, h]

theorem seq_haltSelf : ∃ x y, Repositioned s a x y ∧ (haltSelf s a r k common).seq a =
    { s.seq a with
      sq := if (stopped s a k).motion = .still then .halted else .halting
      reason := some r
      window := haltedWindow s a
      posNeg := x
      posPos := y } := by
  obtain ⟨x, y, hp, h⟩ := seq_haltFirst s a r k
  rw [← (axis_congr (haltBreak_axes s a r k common) a).1] at h
  have hm := (axis_congr (haltBreak_axes s a r k common) a).2
  rw [mg_haltFirst] at hm
  refine ⟨x, y, hp, ?_⟩
  unfold haltSelf
  dsimp only
  rw [seq_barrierHalt, seq_setSq, if_pos rfl, h, hm]
  have hs : (stopped s a k).isStill = decide ((stopped s a k).motion = .still) := by
    rw [← Bool.coe_iff_coe, isStill_iff, decide_eq_true_eq]
  simp only [if_true, MG.isStill] at hs ⊢
  simp only [hs, decide_eq_true_eq]

/-- The axis has left every entry that it could hold an arrival of. -/
theorem unarrived_breakFor (h : rdvOk s) : Unarrived (s.breakFor a).1 a := by
  intro e
  rw [entry_breakFor]
  by_cases hc : concerns s a e = true
  · rw [if_pos hc]
    obtain ⟨x, -, hx⟩ := brokenBy_eq a (s.entry e)
    rw [hx]
    exact inSet_zero a
  · rw [if_neg hc, Bool.eq_false_iff]
    intro ha
    obtain ⟨hsub, hop, -⟩ := h e
    have h0 : (s.entry e).arrived ≠ 0 := fun h0 => by
      rw [h0, inSet_zero] at ha
      cases ha
    refine hc ((concerns_iff s a e).2 ⟨?_, ?_, h0⟩)
    · by_contra k
      exact h0 (hop k)
    · by_contra hm
      have hz := (set_eq_zero_iff _).1 hsub a
      rw [Bool.not_eq_true] at hm
      unfold inSet at hz ha hm
      rw [BitVec.getLsbD_and, BitVec.getLsbD_not, ha, hm, decide_eq_true a.isLt] at hz
      cases hz

theorem halting_haltTail : Halting (haltBreak s a r k common).1 (haltSelf s a r k common) := by
  unfold haltSelf
  generalize (haltBreak s a r k common).1 = p
  exact (halting_setSq p a (not_liveSq_halt _)).trans (halting_barrierHalt _ a r)

theorem unarrived_haltSelf (h : rdvOk s) : Unarrived (haltSelf s a r k false) a := by
  refine (halting_haltTail s a r k false).unarrived ?_
  rw [haltBreak_alone]
  exact unarrived_breakFor _ a ((halting_haltFirst s a r k).rdvOk h)

/-- What follows a halt event of an axis does not reach the axis, where it has arrived nowhere. -/
theorem haltEvent_own_of (n : Nat) (h : common = true ∨ Unarrived (haltSelf s a r k false) a) :
    Bystander a (haltSelf s a r k common) (haltEvent (n + 1) a r k common s) ∧
    Halting (haltSelf s a r k common) (haltEvent (n + 1) a r k common s) := by
  rw [haltEvent_succ]
  have hh (u : State) (b : Axis) := halting_haltEvent n b .group .soft false u
  refine ⟨?_, Halting.foldl _ hh _⟩
  cases common with
  | true =>
    have hm : members (haltBreak s a r k true).2 = [] := by
      rw [haltBreak_common]
      exact (by decide : members 0 = [])
    rw [hm, List.foldl_nil]
    exact Bystander.refl a _
  | false =>
    have hu := h.resolve_left (by decide)
    have hm (c : Axis) (hc : c ∈ members (haltBreak s a r k false).2) := (mem_haltBreak s a r k false hc).2.1.symm
    generalize members (haltBreak s a r k false).2 = l at hm ⊢
    generalize haltSelf s a r k false = t at hu ⊢
    exact Bystander.foldl (f := fun s b => haltEvent n b .group .soft false s) hh
      (fun u c hc hu => bystander_haltEvent n c .group .soft false u (hm c hc) hu) t hu

theorem haltEvent_own (n : Nat) (h : common = true ∨ rdvOk s) :
    Bystander a (haltSelf s a r k common) (haltEvent (n + 1) a r k common s) ∧
    Halting (haltSelf s a r k common) (haltEvent (n + 1) a r k common s) :=
  haltEvent_own_of s a r k common n (h.imp_right (unarrived_haltSelf s a r k))

end

section
variable (s : State) (a : Axis) (r : HaltReason) (k : StopKind) (common : Bool)

/-- The sequencer of the axis after its halt event. -/
theorem seq_haltEvent (n : Nat) (h : common = true ∨ rdvOk s) : ∃ x y, Repositioned s a x y ∧
    (haltEvent (n + 1) a r k common s).seq a =
    { s.seq a with
      sq := if (stopped s a k).motion = .still then .halted else .halting
      reason := some r
      window := haltedWindow s a
      posNeg := x
      posPos := y } := by
  obtain ⟨x, y, hp, hq⟩ := seq_haltSelf s a r k common
  refine ⟨x, y, hp, ?_⟩
  rw [(haltEvent_own s a r k common n h).1.seq_eq, hq]
  rw [hq]
  dsimp only
  split <;> exact fun k => by cases k

/-- The MG of the axis after its halt event. -/
theorem mg_haltEvent (n : Nat) (h : common = true ∨ rdvOk s) :
    ∃ v, (haltEvent (n + 1) a r k common s).mg a = { stopped s a k with watchers := v } := by
  obtain ⟨v, hv⟩ := (haltEvent_own s a r k common n h).1.mg
  refine ⟨v, ?_⟩
  rw [hv, mg_haltSelf]
  simp only [if_true]

theorem not_live_haltSelf : ¬ live (haltSelf s a r k common) a := by
  obtain ⟨x, y, -, h⟩ := seq_haltSelf s a r k common
  rw [live_iff, h]
  dsimp only
  split <;> rintro (h | ⟨_, h⟩ | h) <;> cases h

theorem not_live_haltEvent (n : Nat) : ¬ live (haltEvent (n + 1) a r k common s) a := by
  intro h
  rw [haltEvent_succ] at h
  exact not_live_haltSelf s a r k common
    ((Halting.foldl _ (fun u b => halting_haltEvent n b .group .soft false u) _).live a h)

/-! ### Halt causes -/

theorem halting_hardStop : Halting s (s.modMg a MG.hardStop) :=
  halting_modMg s a MG.hardStop rfl fun _ => .inl rfl

theorem halting_furtherCause : Halting s (s.furtherCause a r k) := by
  have h := halting_secondReason s a r
  unfold State.furtherCause
  generalize s.secondReason a r = t at h ⊢
  cases k with
  | soft => exact h
  | hard =>
    refine (h.trans (halting_hardStop t a)).trans (halting_setSq _ a ?_)
    rintro (h | ⟨_, h⟩ | h) <;> cases h

theorem bystander_furtherCause {b : Axis} (hb : b ≠ a) : Bystander b s (s.furtherCause a r k) := by
  have h := halting_secondReason s a r
  have h' := bystander_secondReason s a b r hb
  unfold State.furtherCause
  generalize s.secondReason a r = t at h h' ⊢
  cases k with
  | soft => exact h'
  | hard =>
    dsimp only
    have i := halting_hardStop t a
    have i' := h'.trans h i (bystander_modMg t a b MG.hardStop hb)
    generalize t.modMg a MG.hardStop = u at i i'
    refine i'.trans (t := u) (u := u.setSq a .halted) (h.trans i) (halting_setSq u a ?_) (bystander_modSeq u a b _ hb)
    rintro (h | ⟨_, h⟩ | h) <;> cases h

/-- A halt event is due, a further cause, or nothing (R97, R104). -/
theorem halt_states (q : SqState) : LiveSq q ∨ q = .halting ∨ q = .off ∨ q = .halted := by
  cases q with
  | off => exact .inr (.inr (.inl rfl))
  | empty => exact .inl (.inl rfl)
  | wait c => exact .inl (.inr (.inl ⟨c, rfl⟩))
  | run => exact .inl (.inr (.inr rfl))
  | halting => exact .inr (.inl rfl)
  | halted => exact .inr (.inr (.inr rfl))

theorem halting_haltCause : Halting s (s.haltCause a r k common) := by
  rcases halt_states (s.seq a).sq with h | h | h
  · rw [haltCause_live r k common h]
    exact halting_haltEvent _ a r k common s
  · rw [haltCause_halting r k common h]
    exact halting_furtherCause s a r k
  · rw [haltCause_stopped r k common h]
    exact .refl s

theorem bystander_haltCause {b : Axis} (hb : b ≠ a) (hu : Unarrived s b) : Bystander b s (s.haltCause a r k common) := by
  rcases halt_states (s.seq a).sq with h | h | h
  · rw [haltCause_live r k common h]
    exact bystander_haltEvent _ a r k common s hb hu
  · rw [haltCause_halting r k common h]
    exact bystander_furtherCause s a r k hb
  · rw [haltCause_stopped r k common h]
    exact .refl b s

theorem not_live_haltCause : ¬ live (s.haltCause a r k common) a := by
  rcases halt_states (s.seq a).sq with h | h | h
  · rw [haltCause_live r k common h]
    exact not_live_haltEvent s a r k common 4
  · intro hl
    have := (halting_haltCause s a r k common).live a hl
    rw [live_iff, h] at this
    rcases this with h | ⟨_, h⟩ | h <;> cases h
  · rw [haltCause_stopped r k common h, live_iff]
    rcases h with h | h <;> rw [h] <;> rintro (h | ⟨_, h⟩ | h) <;> cases h

theorem halting_haltAll : Halting s (s.haltAll r k) := by
  unfold State.haltAll
  exact (halting_breakCommon s _).trans (Halting.forEach _ (fun a s => halting_haltCause s a r k true) _)

end

/-- Halts over a list of axes leave none of them able to take a segment. -/
theorem not_live_forEach {f : Axis → State → State} (hf : ∀ a s, Halting s (f a s)) (hl : ∀ a s, ¬ live (f a s) a)
    (l : List Axis) : ∀ s : State, ∀ a ∈ l, ¬ live (forEach l f s) a := by
  induction l with
  | nil => exact fun _ _ h => nomatch h
  | cons c l ih =>
    intro s a ha
    rw [forEach_cons]
    rcases List.mem_cons.1 ha with rfl | ha
    · exact fun h => hl a s ((Halting.forEach l hf _).live a h)
    · exact ih _ a ha

theorem not_live_haltAll (s : State) (r : HaltReason) (k : StopKind) (a : Axis) : ¬ live (s.haltAll r k) a := by
  unfold State.haltAll
  exact not_live_forEach (fun a s => halting_haltCause s a r k true) (fun a s => not_live_haltCause s a r k true)
    allAxes _ a (mem_allAxes a)

end Sys2Proof.Proofs

/-! The causes that reach every axis: the STOP_ALL requests (R109, R171), a bus fault (R175), the entry into DS_RUN
(R110, R166), and the test of the deviation (R114 to R118). -/

namespace Sys2Proof.Proofs

open Sys2Proof.Machine Sys2Proof.Safety Sys2Proof.Laws

/-! ### The STOP_ALL requests -/

section
variable {s : State} {w : Word}

theorem stopAllRequest_supervised (k : StopKind) (h : s.supervised = true) : s.stopAllRequest k = s.haltAll .stopAll k :=
  if_pos h

theorem ctrlStop_supervised (h : s.supervised = true) : s.ctrlStop w =
    if ctrlStopHard w then s.haltAll .stopAll .hard
    else if ctrlStopSoft w then s.haltAll .stopAll .soft else s := by
  unfold State.ctrlStop
  rw [stopAllRequest_supervised _ h, stopAllRequest_supervised _ h]

/-- The ENABLE field of a write whose STOP_ALL request has left `u`, in a supervised device state. -/
theorem ctrlEnableField_supervised {u : State} (on : Bool) (h : u.dev = s.dev) (he : u.enable = s.enable) :
    (s.dev = .run → u.ctrlEnableField on = if on then u else u.drainEvent) ∧
    (s.dev = .drain → u.ctrlEnableField on = u) ∧
    (s.dev = .fault → u.ctrlEnableField on = { u with enable := s.enable && on }) := by
  refine ⟨fun hd => ?_, fun hd => ?_, fun hd => ?_⟩ <;> rw [hd] at h
  · cases on <;> simp only [State.ctrlEnableField, h] <;> rfl
  · simp only [State.ctrlEnableField, h]
  · have same : u = { u with
        dev := .fault
        enable := s.enable } := by rw [← h, ← he]
    cases on <;> simp only [State.ctrlEnableField, h, Bool.and_false, Bool.and_true]
    exact same

theorem exec_enableClear (hr : s.resetHeld = false) :
    exec (.enableClear w) s = .next ((s.ctrlStop (w &&& ~~~3#32)).ctrlEnableField false).finish := by
  rw [← ctrlEnable_enableClear w, ← ctrlWrite_noReset _ (ctrlReset_clear _ _ rfl)]
  exact exec_some rfl hr

/-- The write that carries a STOP_ALL request. -/
def stopWrite (w : Word) (hard : Bool) : Word :=
  if hard then (w ||| 8#32) &&& ~~~2#32 else (w ||| 4#32) &&& ~~~10#32

theorem exec_stopAll (hard : Bool) (hr : s.resetHeld = false) :
    exec (if hard then .stopAllHard w else .stopAllSoft w) s =
      .next ((s.ctrlStop (stopWrite w hard)).ctrlEnableField (ctrlEnable w)).finish := by
  cases hard with
  | true =>
    rw [← ctrlEnable_stopAllHard w]
    refine Eq.trans ?_ (congrArg (fun u => Host.Outcome.next (State.finish u)) (ctrlWrite_noReset _ (ctrlReset_clear _ _ rfl)))
    exact exec_some rfl hr
  | false =>
    rw [← ctrlEnable_stopAllSoft w]
    refine Eq.trans ?_ (congrArg (fun u => Host.Outcome.next (State.finish u)) (ctrlWrite_noReset _ (ctrlReset_clear _ _ rfl)))
    exact exec_some rfl hr

theorem ctrlStop_stopWrite (hard : Bool) (h : s.supervised = true) :
    s.ctrlStop (stopWrite w hard) = s.haltAll .stopAll (if hard then .hard else .soft) := by
  rw [ctrlStop_supervised h]
  cases hard with
  | true => exact if_pos (ctrlStopHard_stopAllHard w)
  | false =>
    refine (if_neg ?_).trans (if_pos (ctrlStopSoft_stopAllSoft w))
    exact Bool.not_eq_true _ ▸ ctrlStopHard_stopAllSoft w

end

/-- Settles O12: the request is `haltAll` in a supervised device state, after which no axis is live. -/
theorem stopAllHaltsEveryAxis : Obligations.StopAllHaltsEveryAxis := by
  refine ⟨fun s w hard hr => ?_, not_live_haltAll⟩
  have sup (h : s.dev = .run ∨ s.dev = .drain ∨ s.dev = .fault) :=
    ctrlStop_stopWrite (w := w) hard ((supervised_iff s).2 h)
  have h := halting_haltAll s .stopAll (if hard then .hard else .soft)
  obtain ⟨run, drain, fault⟩ := ctrlEnableField_supervised (ctrlEnable w) h.dev h.enable
  have e := exec_stopAll (s := s) (w := w) hard hr
  refine ⟨fun hd => ?_, fun hd => ?_, fun hd => ?_, fun hd => ?_, fun hd hw => ?_, fun hd hw => ?_⟩ <;> refine e.trans ?_
  · rw [sup (.inl hd), run hd]
  · rw [sup (.inr (.inl hd)), drain hd]
  · rw [sup (.inr (.inr hd)), fault hd]
  · rw [ctrlStop_unsupervised _ _ (supervised_load hd)]
    simp only [State.ctrlEnableField, hd]
  · rw [ctrlStop_unsupervised _ _ (supervised_off hd)]
    simp only [State.ctrlEnableField, hd, hw]
  · rw [ctrlStop_unsupervised _ _ (supervised_off hd)]
    simp only [State.ctrlEnableField, hd, hw]

/-- Settles O10, by the device states. -/
theorem enableClearDrainsOrRecords : Obligations.EnableClearDrainsOrRecords := by
  intro s w hr u
  have hu : Halting s u := .ite (fun _ => halting_haltAll s .stopAll .hard) fun _ =>
    .ite (fun _ => halting_haltAll s .stopAll .soft) fun _ => .refl s
  have sup (h : s.dev = .run ∨ s.dev = .drain ∨ s.dev = .fault) : s.ctrlStop (w &&& ~~~3#32) = u := by
    rw [ctrlStop_supervised ((supervised_iff s).2 h), ctrlStopHard_enableClear, ctrlStopSoft_enableClear]
  obtain ⟨run, drain, fault⟩ := ctrlEnableField_supervised false hu.dev hu.enable
  refine ⟨fun hd => ?_, fun hd => ?_, fun hd => ?_, fun hd => ?_, fun hd => ?_⟩ <;> rw [exec_enableClear hr]
  · rw [sup (.inl hd), run hd, if_neg Bool.false_ne_true]
  · rw [sup (.inr (.inr hd)), fault hd, Bool.and_false]
  · rw [sup (.inr (.inl hd)), drain hd]
  · rw [ctrlStop_unsupervised _ _ (supervised_load hd)]
    simp only [State.ctrlEnableField, hd]
  · rw [ctrlStop_unsupervised _ _ (supervised_off hd)]
    simp only [State.ctrlEnableField, hd]

/-! ### A bus fault -/

/-- The part at a bus fault, before the halts. -/
def faulted (s : State) (x : Transfer) : State :=
  { s with
    dev := .fault, rings := s.rings.map Ring.abandon, queue := s.queue.freeze (x == Transfer.cplWrite)
    cte := cteFault s.cte }.recordFault (Transfer.code x) (Transfer.source x)

theorem busFault_eq (s : State) (x : Transfer) : s.busFault x = ((faulted s x).haltAll .bus .soft).setDevice := rfl

theorem cteFault_cases (c : Cte) : cteFault c = .idle ∨ ∃ b, cteFault c = .barrier b := by
  cases c with
  | barrier b => exact .inr ⟨b, rfl⟩
  | _ => exact .inl rfl

theorem freeze_writing (q : Queue) (x : Transfer) :
    (q.freeze (x == .cplWrite)).writing = if x = .cplWrite then q.writing else none := by
  unfold Queue.freeze
  cases hw : q.writing with
  | none => simp [hw]
  | some c =>
    by_cases hx : x = .cplWrite
    · simp [hx, hw]
    · simp [hx]

/-- Settles O31: the fields of the faulted part, which the halts keep. -/
theorem busFaultStopsThePart : Obligations.BusFaultStopsThePart := by
  intro s x hr t
  have h := halting_haltAll (faulted s x) .bus .soft
  have ht : t = ((faulted s x).haltAll .bus .soft).setDevice := busFault_eq s x
  have e : effect (.busFault x) s = if s.inProgress x then some (s.busFault x) else none := rfl
  refine ⟨fun hp => exec_none (by rw [e, hp]; rfl) rfl hr, fun hp => exec_some (by rw [e, hp]; rfl) hr, ?_⟩
  clear_value t
  generalize hu : (faulted s x).haltAll .bus .soft = u at h ht
  subst ht
  refine ⟨h.dev, h.enable, rfl, ?_, ?_, fun r => ?_, h.cpl, ?_, fun a hl => ?_, ?_⟩
  · refine h.faultCode.trans ?_
    cases x <;> rfl
  · refine h.faultSource.trans ?_
    cases x <;> rfl
  · refine (h.ring r).trans ?_
    exact Vector.getElem_map ..
  · exact h.writing.trans (freeze_writing s.queue x)
  · exact not_live_haltAll (faulted s x) .bus .soft a (hu ▸ hl)
  · rcases h.cte with hc | ⟨hc, -⟩
    · rcases cteFault_cases s.cte with k | ⟨b, k⟩
      · exact .inl (hc.trans k)
      · exact .inr ⟨b, hc.trans k⟩
    · exact .inl hc

/-! ### The entry into DS_RUN -/

/-- A cause common to several axes does not reach another axis. -/
theorem bystander_haltCause_common (s : State) (a : Axis) (r : HaltReason) (k : StopKind) {b : Axis} (hb : b ≠ a) :
    Bystander b s (s.haltCause a r k true) := by
  rcases halt_states (s.seq a).sq with h | h | h
  · rw [haltCause_live r k true h]
    have hm : members (haltBreak s a r k true).2 = [] := by
      rw [haltBreak_common]
      exact (by decide : members 0 = [])
    rw [haltDepth, haltEvent_succ, hm, List.foldl_nil]
    exact bystander_haltSelf s a r k true hb
  · rw [haltCause_halting r k true h]
    exact bystander_furtherCause s a r k hb
  · rw [haltCause_stopped r k true h]
    exact .refl b s

/-- The stop-all halt of an axis at the entry. -/
def entryHalt (a : Axis) (s : State) : State := if s.isEmpty a then s.haltCause a .stopAll .soft true else s

theorem entryStop_eq (s : State) : s.entryStop =
    if s.stopLineActive then forEach allAxes entryHalt (s.breakCommon (axisSet s.isEmpty)) else s := rfl

theorem isEmpty_iff (s : State) (a : Axis) : s.isEmpty a = true ↔ (s.seq a).sq = .empty := beq_iff_eq

theorem halting_entryHalt (a : Axis) (s : State) : Halting s (entryHalt a s) :=
  .ite (fun _ => halting_haltCause s a _ _ true) fun _ => .refl s

theorem empty_entryHalt {a : Axis} (b : Axis) {s : State} (h : (s.seq a).sq = .empty) :
    ((entryHalt b s).seq a).sq = .empty ∧ b ≠ a ∨ ¬ live (entryHalt b s) a := by
  by_cases hb : b = a
  · subst hb
    refine .inr ?_
    unfold entryHalt
    rw [if_pos ((isEmpty_iff s b).2 h)]
    exact not_live_haltCause s b .stopAll .soft true
  · refine .inl ⟨?_, hb⟩
    have hs : Bystander a s (entryHalt b s) := by
      unfold entryHalt
      split
      · exact bystander_haltCause_common s b _ _ (Ne.symm hb)
      · exact .refl a s
    rw [hs.seq_eq (by rw [h]; exact fun k => by cases k), h]

theorem entryHalts_not_live {a : Axis} (l : List Axis) (ha : a ∈ l) : ∀ s : State, (s.seq a).sq = .empty →
    ¬ live (forEach l entryHalt s) a := by
  induction l with
  | nil => cases ha
  | cons b l ih =>
    intro s h
    rw [forEach_cons]
    rcases empty_entryHalt b h with ⟨h', hb⟩ | h'
    · exact ih ((List.mem_cons.1 ha).resolve_left (Ne.symm hb)) _ h'
    · exact fun hl => h' ((Halting.forEach l halting_entryHalt _).live a hl)

theorem load_eq (d : RingDesc) : d.load = ⟨d.base, d.size, d.start, d.start, BitVec.ofNat 16 d.start, .idle,
    .writing (BitVec.ofNat 16 d.start ++ BitVec.ofNat 16 d.start) false⟩ := by
  unfold RingDesc.load Ring.dueReport
  dsimp only
  rw [word_append]

/-- Settles O27: the three ends of the read, the loads of R166, and the stop-all halts of the axes in SQ_EMPTY. -/
theorem setupReadLoadsOrFails : Obligations.SetupReadLoadsOrFails := by
  refine ⟨fun s b hr => ?_, fun s x => ?_⟩
  · have e : effect (.setupReadCompletion b) s = s.setupRead b := rfl
    unfold State.setupRead at e
    refine ⟨fun hd => exec_none (e.trans (if_pos hd)) rfl hr, fun hd he => exec_some ?_ hr,
      fun code src hd he hc => exec_some ?_ hr, fun hd he hc => exec_some ?_ hr⟩ <;> refine e.trans ((if_neg (not_not.2 hd)).trans ?_)
    · exact if_pos (by rw [he]; rfl)
    · refine (if_neg (by rw [he]; decide)).trans ?_
      rw [hc]
      rfl
    · refine (if_neg (by rw [he]; decide)).trans ?_
      rw [hc]
  · intro t
    refine ⟨rfl, fun hs => ?_, fun hs a ha => ?_, rfl, rfl, rfl, fun r => ?_, rfl, rfl, rfl, rfl, rfl, rfl, rfl, rfl, rfl,
      rfl, rfl, rfl⟩
    · exact if_neg (by rw [show t.stopLineActive = s.stopLineActive from rfl, hs]; exact Bool.false_ne_true)
    · rw [entryStop_eq, if_pos (show t.stopLineActive = true from hs)]
      refine entryHalts_not_live allAxes (mem_allAxes a) _ ?_
      have h := bystander_breakCommon t a (axisSet t.isEmpty)
      rw [h.seq_eq (by rw [show t.seq a = s.seq a from rfl, ha]; exact fun k => by cases k)]
      exact ha
    · dsimp only
      rw [← load_eq]
      fin_cases r <;> rfl

/-! ### The test of the deviation -/

section
variable (s : State) (a : Axis)

theorem monitored_iff : s.monitored a = true ↔ (s.seq a).sq ≠ .off ∧ 0 < (s.cfg a).tolerance ∧
    (s.dev = .run ∨ s.dev = .drain ∨ s.dev = .fault) := by
  unfold State.monitored
  rw [Bool.and_eq_true, Bool.and_eq_true, bne_iff_ne, decide_eq_true_eq, supervised_iff, and_assoc]

theorem judgeDeviation_monitored (h : s.monitored a = true) : s.judgeDeviation a =
    (s.modFbm a fun f => { f with tripped := s.beyondTolerance a }, s.beyondTolerance a && !(s.fbm a).tripped) := if_pos h

/-- The test of a monitored axis, by its outcome. -/
theorem testDeviation_monitored (h : s.monitored a = true) {b : Bool} (hb : s.beyondTolerance a = b) :
    s.testDeviation a = if b && !(s.fbm a).tripped then
      (s.modFbm a fun f => { f with tripped := b }).takeFault a .following (s.cfg a).faultAction
    else s.modFbm a fun f => { f with tripped := b } := by
  unfold State.testDeviation
  rw [judgeDeviation_monitored s a h, hb]
  dsimp only
  rw [cfg_modFbm]

theorem testDeviation_unmonitored (h : s.monitored a = false) : s.testDeviation a = s := by
  unfold State.testDeviation State.judgeDeviation
  rw [h]
  rfl

theorem fbm_haltCause (r : HaltReason) (k : StopKind) (common : Bool) (b : Axis) :
    (s.haltCause a r k common).fbm b = s.fbm b := (halting_haltCause s a r k common).fbm b

end

/-- Settles O21: the test by its outcome, and a fault event as a halt cause that keeps the monitors. -/
theorem deviationTestTrips : Obligations.DeviationTestTrips := by
  refine ⟨monitored_iff, fun s a => ?_, fun s a r k => ?_⟩
  · intro d u
    have beyond (b : Bool) (h : b = decide ((s.cfg a).tolerance < d.natAbs)) : s.beyondTolerance a = b := h.symm
    refine ⟨testDeviation_unmonitored s a, fun hm hd hf => ?_, fun hm hd hf => ?_, fun hm hd => ?_⟩
    · rw [testDeviation_monitored s a hm (beyond true (decide_eq_true hd).symm), hf]
      rfl
    · rw [testDeviation_monitored s a hm (beyond true (decide_eq_true hd).symm), hf]
      rfl
    · rw [testDeviation_monitored s a hm (beyond false (decide_eq_false (not_lt.2 hd)).symm)]
      rfl
  · intro drops t
    have hp : ((s.cfg a).disableOnFault && (s.seq a).sq != .off) = true ↔ drops := by
      rw [Bool.and_eq_true, bne_iff_ne]
    have hd (h : drops) : t = (s.modFbm a fun f => { f with enaDropped := true }).haltCause a r k false :=
      congrArg (fun u => State.haltCause u a r k false) (if_pos (hp.2 h))
    have hn (h : ¬ drops) : t = s.haltCause a r k false :=
      congrArg (fun u => State.haltCause u a r k false) (if_neg (mt hp.1 h))
    clear_value t
    have hf (h : drops) : t.fbm a = { s.fbm a with enaDropped := true } := by
      rw [hd h, fbm_haltCause, fbm_modFbm, if_pos rfl]
    refine ⟨hd, hn, fun h => ⟨hf h, ?_⟩, fun h => ?_, fun b hb => ?_⟩
    · unfold State.ena
      rw [hf h]
      simp
    · rw [hn h, fbm_haltCause]
    · by_cases h : drops
      · rw [hd h, fbm_haltCause, fbm_modFbm, if_neg hb]
      · rw [hn h, fbm_haltCause]

end Sys2Proof.Proofs

/-! Records passed and discarded (R3, R8, R23, R75, R167, R168), and what CONFIG_AXIS leaves (R141, R142). -/

namespace Sys2Proof.Proofs

open Sys2Proof.Machine Sys2Proof.Safety Sys2Proof.Laws

/-! ### The consumer index -/

theorem pass_fields (x : Ring) {n : Nat} (hn : 0 < n) :
    x.pass n = { x with cons := (x.cons + n) % x.size, seqNo := x.seqNo + BitVec.ofNat 16 n }.dueReport :=
  if_neg (Nat.ne_of_gt hn)

theorem fetch_pass_eq (x : Ring) (n : Nat) : (x.pass n).fetch = x.fetch := by
  rcases Nat.eq_zero_or_pos n with rfl | hn
  · rfl
  · rw [pass_fields x hn]
    obtain ⟨p, hp⟩ := dueReport_eq { x with cons := (x.cons + n) % x.size, seqNo := x.seqNo + BitVec.ofNat 16 n }
    rw [hp]

/-- A waiting BARRIER keeps its record but for its counts. -/
def Counting (c d : Cte) : Prop :=
  d = c ∨ ∃ b x y, c = .barrier b ∧
    d = .barrier { b with
      counts := x
      skip := y }

theorem Counting.trans {c d e : Cte} (h : Counting c d) (k : Counting d e) : Counting c e := by
  rcases h with rfl | ⟨b, x, y, rfl, rfl⟩
  · exact k
  · rcases k with rfl | ⟨b', x', y', hb, rfl⟩
    · exact .inr ⟨b, x, y, rfl, rfl⟩
    · cases hb
      exact .inr ⟨b, x', y', rfl, rfl⟩

section
variable (s : State) (a : Axis) (n : Nat)

theorem barrierPass_counting : ∃ c, s.barrierPass a = { s with cte := c } ∧ Counting s.cte c := by
  unfold State.barrierPass
  split
  next b hb =>
    dsimp only
    split
    · exact ⟨_, rfl, .inr ⟨b, _, _, hb, rfl⟩⟩
    · exact ⟨_, rfl, .inr ⟨b, _, _, hb, rfl⟩⟩
  · exact ⟨s.cte, rfl, .inl rfl⟩

theorem barrierPasses_counting : ∀ s : State, ∃ c, barrierPasses n a s = { s with cte := c } ∧ Counting s.cte c := by
  induction n with
  | zero => exact fun s => ⟨s.cte, rfl, .inl rfl⟩
  | succ n ih =>
    intro s
    obtain ⟨c, h, hc⟩ := barrierPass_counting s a
    obtain ⟨d, k, hd⟩ := ih (s.barrierPass a)
    rw [h] at k hd
    exact ⟨d, by rw [barrierPasses, h, k], hc.trans hd⟩

/-! ### The discard of a window -/

/-- The records of the ring passed, with its fetch in flight marked (R8, R23). -/
def ringDiscarded (x : Ring) : Ring :=
  { x.pass n with fetch := if x.fetch = .inFlight then .discard else x.fetch }

/-- The window emptied, before what waits on the candidate is withdrawn (R23). -/
def dropped : State :=
  let u := (s.passRecords a n).markDiscard a
  ((u.seq a).window.foldl (fun s e => if e.isPending then s.lowerUse e.seg.bankUse else s) u).modSeq a
    fun q => { q with window := [] }

theorem discard_eq : (s.discard a n).1 = (dropped s a n).withdraw a := rfl

theorem modRing_modRing (q : RingNo) (f g : Ring → Ring) (c : Cte) :
    State.modRing { s.modRing q f with cte := c } q g = { s.modRing q (fun x => g (f x)) with cte := c } := by
  simp only [State.modRing, State.ring, setAt_setAt, setAt_get_self]

theorem passed_eq : ∃ c, (s.passRecords a n).markDiscard a =
    { s.modRing (axisRing a) (ringDiscarded n) with cte := c } ∧ Counting s.cte c := by
  obtain ⟨c, h, hc⟩ := barrierPasses_counting a n (s.modRing (axisRing a) fun r => r.pass n)
  refine ⟨c, ?_, hc⟩
  unfold State.passRecords State.markDiscard
  rw [h, modRing_modRing]
  refine congrArg (fun f => { s.modRing (axisRing a) f with cte := c }) (funext fun x => ?_)
  unfold ringDiscarded
  rw [fetch_pass_eq]

theorem dropped_eq : ∃ c v, dropped s a n = ({ s.modRing (axisRing a) (ringDiscarded n) with
      cte := c
      banks := v } : State).modSeq a (fun q => { q with window := [] }) ∧
    Counting s.cte c ∧
    ∀ b, (v.get b).uses = (s.bank b).uses - (s.seq a).window.countP (usesBank b) := by
  obtain ⟨c, h, hc⟩ := passed_eq s a n
  unfold dropped
  dsimp only
  rw [h]
  obtain ⟨v, h1, -, h3⟩ := lower_all { s.modRing (axisRing a) (ringDiscarded n) with cte := c }
    (State.seq { s.modRing (axisRing a) (ringDiscarded n) with cte := c } a).window
  exact ⟨c, v, by rw [h1], hc, h3⟩

theorem ring_dropped (q : RingNo) :
    (dropped s a n).ring q = if q = axisRing a then ringDiscarded n (s.ring (axisRing a)) else s.ring q := by
  obtain ⟨c, v, h, -⟩ := dropped_eq s a n
  rw [h]
  exact ring_modRing ..

theorem seq_dropped (b : Axis) : (dropped s a n).seq b = if b = a then { s.seq a with window := [] } else s.seq b := by
  obtain ⟨c, v, h, -⟩ := dropped_eq s a n
  rw [h, seq_modSeq]
  rfl

theorem mg_dropped (b : Axis) : (dropped s a n).mg b = s.mg b := by
  obtain ⟨c, v, h, -⟩ := dropped_eq s a n
  rw [h, mg_modSeq]
  rfl

theorem uses_dropped (b : BankNo) : ((dropped s a n).bank b).uses =
    (s.bank b).uses - (s.seq a).window.countP (usesBank b) := by
  obtain ⟨c, v, h, -, hv⟩ := dropped_eq s a n
  rw [h]
  exact hv b

theorem rdv_dropped : (dropped s a n).rdv = s.rdv := by
  obtain ⟨c, v, h, -⟩ := dropped_eq s a n
  rw [h]
  rfl

theorem halting_discard : Halting (dropped s a n) (s.discard a n).1 := by
  rw [discard_eq]
  exact halting_withdraw _ a

theorem bystander_discard {b : Axis} (hb : b ≠ a) : Bystander b (dropped s a n) (s.discard a n).1 := by
  rw [discard_eq]
  exact bystander_withdraw _ a b hb

theorem seq_discard_self : (s.discard a n).1.seq a = { s.seq a with window := [] } := by
  rw [discard_eq, seq_withdraw_self, seq_dropped, if_pos rfl]
  rfl

/-- The sequencer of another axis after a discard: at most the axis has claimed its place. -/
theorem seq_discard_other {b : Axis} (hb : b ≠ a) : (s.discard a n).1.seq b = s.seq b ∨
    (s.seq b).sq = .wait .cond ∧ (s.discard a n).1.seq b = waitsWith (s.seq b) .waitStart .place := by
  have h := (bystander_discard s a n hb).seq
  rw [seq_dropped, if_neg hb] at h
  exact h

theorem ring_discard (q : RingNo) : (s.discard a n).1.ring q =
    if q = axisRing a then ringDiscarded n (s.ring (axisRing a)) else s.ring q := by
  rw [(halting_discard s a n).ring, ring_dropped]

end

/-! ### Windows and use counts -/

theorem setHead_window (q : Seq) (p : EntryState) : (q.setHead p).window = match q.window with
    | e :: rest => { e with state := p } :: rest
    | [] => [] := by
  unfold Seq.setHead
  cases h : q.window with
  | nil => exact h
  | cons e rest => rfl

theorem window_seq_waitsWith (q : Seq) (p : Progress) (c : WaitCause) :
    (waitsWith q p c).window.map Entry.seq = q.window.map Entry.seq := by
  change (q.setHead (.pending p)).window.map Entry.seq = _
  rw [setHead_window]
  cases q.window with
  | nil => rfl
  | cons e rest => rfl

/-- A candidate that waits otherwise names its bank as before. -/
theorem uses_waitsWith {q : Seq} (h : q.activeEntry = none) (p : Progress) (c : WaitCause) (b : BankNo) :
    (waitsWith q p c).window.countP (usesBank b) = q.window.countP (usesBank b) := by
  change (q.setHead (.pending p)).window.countP (usesBank b) = _
  rw [setHead_window]
  cases hw : q.window with
  | nil => rfl
  | cons e rest =>
    have he : e.isPending = true := by
      by_contra k
      unfold Seq.activeEntry at h
      rw [hw] at h
      simp only [k] at h
      cases h
    rw [List.countP_cons, List.countP_cons]
    unfold usesBank
    rw [he]
    rfl

theorem pendingUses_sum (s : State) (b : BankNo) :
    pendingUses s b = ∑ c : Axis, (s.seq c).window.countP (usesBank b) := by
  rw [Fin.sum_univ_four]
  rfl

/-- The use counts after a discard (R75). -/
theorem usesOk_discard (s : State) (a : Axis) (n : Nat) (ha : activeOk s) (hu : usesOk s) : usesOk (s.discard a n).1 := by
  intro b
  have hb : ((s.discard a n).1.bank b).uses = ((dropped s a n).bank b).uses := by
    unfold State.bank
    rw [(halting_discard s a n).banks]
  have hc (c : Axis) (h : c ≠ a) : ((s.discard a n).1.seq c).window.countP (usesBank b) =
      (s.seq c).window.countP (usesBank b) := by
    rcases seq_discard_other s a n h with e | ⟨hq, e⟩
    · rw [e]
    · rw [e]
      refine uses_waitsWith ?_ _ _ b
      by_contra k
      have := ha c k
      rw [hq] at this
      cases this
  rw [hb, uses_dropped, hu b, pendingUses_sum, pendingUses_sum, ← Finset.add_sum_erase _ _ (Finset.mem_univ a),
    ← Finset.add_sum_erase (a := a) _ _ (Finset.mem_univ a), seq_discard_self,
    Finset.sum_congr rfl fun c h => hc c (Finset.ne_of_mem_erase h)]
  simp

/-- Settles O60: the passing of records field by field, and a discard as the emptied window with what is withdrawn. -/
theorem discardAccountsForItsRecords : Obligations.DiscardAccountsForItsRecords := by
  refine ⟨fun x n hn => ?_, fun s a n => ?_⟩
  · rw [pass_fields x hn]
    have hd (y : Ring) : (y.report = .idle → y.dueReport.report = .writing (y.seqNo ++ BitVec.ofNat 16 y.cons) false) ∧
        ∀ w again, y.report = .writing w again → y.dueReport.report = .writing w true := by
      unfold Ring.dueReport
      refine ⟨fun h => ?_, fun w again h => ?_⟩
      · rw [h, ← word_append]
      · rw [h]
    obtain ⟨h1, h2⟩ := hd { x with cons := (x.cons + n) % x.size, seqNo := x.seqNo + BitVec.ofNat 16 n }
    obtain ⟨p, hp⟩ := dueReport_eq { x with cons := (x.cons + n) % x.size, seqNo := x.seqNo + BitVec.ofNat 16 n }
    rw [hp] at h1 h2 ⊢
    exact ⟨rfl, rfl, rfl, rfl, rfl, rfl, h1, h2⟩
  · intro x p
    refine ⟨rfl, rfl, ?_, ?_, fun b hb => ?_, usesOk_discard s a n⟩
    · change ((s.discard a n).1.seq a).window = []
      rw [seq_discard_self]
    · exact (ring_discard s a n _).trans (if_pos rfl)
    · rcases seq_discard_other s a n hb with e | ⟨-, e⟩
      · exact congrArg (fun q : Seq => q.window.map Entry.seq) e
      · exact (congrArg (fun q : Seq => q.window.map Entry.seq) e).trans (window_seq_waitsWith ..)

/-! ### The axis as CONFIG_AXIS leaves it -/

section
variable (s : State) (a : Axis) (c : AxisConfig)

/-- The configuration, the monitor and the direction blocks after CONFIG_AXIS (R91, R92, R113, R118). -/
def Freshened (t : State) : Prop :=
  t.cfg a = c ∧ t.deviation a = 0 ∧ (t.fbm a).tripped = false ∧ (t.fbm a).enaDropped = false ∧
  (t.seq a).lineNeg = s.levelOf c.limitNeg ∧ (t.seq a).linePos = s.levelOf c.limitPos ∧
  (t.seq a).posNeg = beyondNeg c (s.mg a).pos ∧ (t.seq a).posPos = beyondPos c (s.mg a).pos

theorem mg_refreshAxis (b : Axis) : (s.refreshAxis a).mg b = s.mg b := by
  unfold State.refreshAxis State.resetFeedback State.rebase State.recomputeLineBlocks State.recomputePosBlocks
  rw [mg_modSeq, mg_modSeq, mg_modFbm, mg_modFbm]

theorem seq_refreshAxis : (s.refreshAxis a).seq a =
    { s.seq a with
      lineNeg := s.levelOf (s.cfg a).limitNeg
      linePos := s.levelOf (s.cfg a).limitPos
      posNeg := beyondNeg (s.cfg a) (s.mg a).pos
      posPos := beyondPos (s.cfg a) (s.mg a).pos } := by
  unfold State.refreshAxis State.resetFeedback State.rebase State.recomputeLineBlocks State.recomputePosBlocks
  simp only [seq_modSeq, seq_modFbm, if_true, mg_modSeq, mg_modFbm, cfg_modSeq, cfg_modFbm]
  rfl

theorem cfg_refreshAxis (b : Axis) : (s.refreshAxis a).cfg b = s.cfg b := by
  unfold State.refreshAxis State.resetFeedback State.rebase State.recomputeLineBlocks State.recomputePosBlocks
  rw [cfg_modSeq, cfg_modSeq, cfg_modFbm, cfg_modFbm]

theorem fbm_refreshAxis : (s.refreshAxis a).fbm a =
    { s.fbm a with
      ref := (s.mg a).pos - scaledCount (s.fbm a).count (s.cfg a).encNum (s.cfg a).encDen
      tripped := false
      enaDropped := false } := by
  unfold State.refreshAxis State.resetFeedback State.rebase State.recomputeLineBlocks State.recomputePosBlocks
  simp only [fbm_modSeq, fbm_modFbm, if_true]

theorem freshened_refreshAxis {t : State} (hc : t.cfg a = c) (hp : (t.mg a).pos = (s.mg a).pos) (hl : t.lines = s.lines) :
    Freshened s a c (t.refreshAxis a) := by
  have hlev (l : Option Line) : t.levelOf l = s.levelOf l := by
    unfold State.levelOf State.line
    rw [hl]
  unfold Freshened State.deviation
  rw [cfg_refreshAxis, mg_refreshAxis, fbm_refreshAxis, seq_refreshAxis, hc, hp]
  refine ⟨rfl, ?_, rfl, rfl, hlev _, hlev _, rfl, rfl⟩
  dsimp only
  omega

theorem freshened_halting {t u : State} (h : Halting t u) (hb : (u.seq a).posNeg = (t.seq a).posNeg ∧
    (u.seq a).posPos = (t.seq a).posPos) (k : Freshened s a c t) : Freshened s a c u := by
  obtain ⟨hln, hlp⟩ := h.block a
  unfold Freshened State.deviation at k ⊢
  rw [h.cfg, h.pos, h.fbm, hln, hlp, hb.1, hb.2]
  exact k

/-! ### Enabled -/

/-- The axis with its new items, enabled from SQ_OFF. -/
def enabledAxis : State :=
  let t := s.modAxis a fun y => { y with cfg := c }
  if (s.seq a).sq = .off then
    t.modSeq a fun q => { q with sq := .empty, reason := none }
  else t

theorem configEnabled_eq : s.configEnabled a c =
    let t := (enabledAxis s a c).refreshAxis a
    let u := if (s.seq a).sq = .off ∧ t.stopLineActive = true then t.haltCause a .stopAll .soft false else t
    (u, .ok (u.sqByte a) 0 ((u.ring (axisRing a)).seqNo.setWidth 32)) := by
  unfold State.configEnabled enabledAxis
  by_cases h : (s.seq a).sq = .off
  · rw [h]
    simp only [beq_self_eq_true, if_true, Bool.true_and, true_and]
  · have hb : ((s.seq a).sq == SqState.off) = false := beq_eq_false_iff_ne.2 h
    simp only [hb, h, if_false, Bool.false_and, false_and, Bool.false_eq_true]

theorem seq_enabledAxis : (enabledAxis s a c).seq a =
    if (s.seq a).sq = .off then { s.seq a with sq := .empty, reason := none } else s.seq a := by
  unfold enabledAxis
  dsimp only
  have h : (s.modAxis a fun y => { y with cfg := c }).seq a = s.seq a := by
    rw [seq_modAxis, if_pos rfl]
    rfl
  split
  · rw [seq_modSeq, if_pos rfl, h]
  · exact h

theorem enabledAxis_keeps : (enabledAxis s a c).cfg a = c ∧ (enabledAxis s a c).mg a = s.mg a ∧
    (enabledAxis s a c).lines = s.lines ∧ (enabledAxis s a c).rings = s.rings ∧ (enabledAxis s a c).rdv = s.rdv := by
  have hc : (s.modAxis a fun y => { y with cfg := c }).cfg a = c := by rw [cfg_modAxis, if_pos rfl]
  have hm : (s.modAxis a fun y => { y with cfg := c }).mg a = s.mg a := by
    rw [mg_modAxis, if_pos rfl]
    rfl
  unfold enabledAxis
  dsimp only
  split
  · exact ⟨(cfg_modSeq ..).trans hc, (mg_modSeq ..).trans hm, rfl, rfl, rfl⟩
  · exact ⟨hc, hm, rfl, rfl, rfl⟩

theorem refreshAxis_keeps : (s.refreshAxis a).lines = s.lines ∧ (s.refreshAxis a).rings = s.rings ∧
    (s.refreshAxis a).rdv = s.rdv := by
  unfold State.refreshAxis State.resetFeedback State.rebase State.recomputeLineBlocks State.recomputePosBlocks
  simp

/-- The axis enabled and refreshed, before the halt of an active stop-all line. -/
def freshAxis : State := (enabledAxis s a c).refreshAxis a

theorem freshened_freshAxis : Freshened s a c (freshAxis s a c) := by
  obtain ⟨hc, hm, hl, -⟩ := enabledAxis_keeps s a c
  exact freshened_refreshAxis s a c hc (by rw [hm]) hl

theorem freshAxis_keeps : (freshAxis s a c).mg a = s.mg a ∧ (freshAxis s a c).lines = s.lines ∧
    (freshAxis s a c).rings = s.rings ∧ (freshAxis s a c).rdv = s.rdv := by
  obtain ⟨-, hm, hl, hr, hd⟩ := enabledAxis_keeps s a c
  obtain ⟨kl, kr, kd⟩ := refreshAxis_keeps (enabledAxis s a c) a
  exact ⟨(mg_refreshAxis ..).trans hm, kl.trans hl, kr.trans hr, kd.trans hd⟩

theorem seq_freshAxis : ((freshAxis s a c).seq a).sq = (if (s.seq a).sq = .off then .empty else (s.seq a).sq) ∧
    ((freshAxis s a c).seq a).reason = (if (s.seq a).sq = .off then none else (s.seq a).reason) ∧
    ((freshAxis s a c).seq a).window = (s.seq a).window := by
  unfold freshAxis
  rw [seq_refreshAxis, seq_enabledAxis]
  split <;> exact ⟨rfl, rfl, rfl⟩

theorem stopLineActive_congr {s t : State} (h : t.lines = s.lines) : t.stopLineActive = s.stopLineActive := by
  unfold State.stopLineActive State.stopAllSet State.line
  rw [h]

/-- CONFIG_AXIS with enabled = yes, by the stop-all lines. -/
theorem configEnabled_cases : ∃ u, Halting (freshAxis s a c) u ∧
    s.configEnabled a c = (u, ⟨.ok, (u.seq a).sq.code, 0, (s.ring (axisRing a)).seqNo.setWidth 32⟩) ∧
    ((s.seq a).sq ≠ .off ∨ s.stopLineActive = false → u = freshAxis s a c) ∧
    ((s.seq a).sq = .off → s.stopLineActive = true → u = (freshAxis s a c).haltCause a .stopAll .soft false) := by
  have e := configEnabled_eq s a c
  obtain ⟨-, hl, hr, -⟩ := freshAxis_keeps s a c
  have hst := stopLineActive_congr hl
  change s.configEnabled a c =
    let t := freshAxis s a c
    let u := if (s.seq a).sq = .off ∧ t.stopLineActive = true then t.haltCause a .stopAll .soft false else t
    (u, .ok (u.sqByte a) 0 ((u.ring (axisRing a)).seqNo.setWidth 32)) at e
  generalize freshAxis s a c = t at e hl hr hst
  dsimp only at e
  rw [hst] at e
  have hu : Halting t (if (s.seq a).sq = .off ∧ s.stopLineActive = true then t.haltCause a .stopAll .soft false else t) :=
    .ite (fun _ => halting_haltCause t a _ _ _) fun _ => .refl t
  refine ⟨_, hu, ?_, fun k => if_neg ?_, fun hq hs => if_pos ⟨hq, hs⟩⟩
  · rw [hu.ring] at e
    unfold State.ring at e ⊢
    rw [hr] at e
    exact e
  · rintro ⟨hq, hs⟩
    rcases k with k | k
    · exact k hq
    · rw [hs] at k
      cases k

/-- Where the axis was in SQ_OFF and a stop-all line is active, it is halted at once (R110, log entry 38). -/
theorem stopped_freshAxis (hq : (s.seq a).sq = .off) (hm : (s.mg a).motion = .still) (hr : rdvOk s) :
    let u := (freshAxis s a c).haltCause a .stopAll .soft false
    Freshened s a c u ∧ (u.seq a).sq = .halted ∧ (u.seq a).reason = some .stopAll := by
  have hf := freshened_freshAxis s a c
  obtain ⟨hmg, -, -, hrdv⟩ := freshAxis_keeps s a c
  obtain ⟨hsq, -⟩ := seq_freshAxis s a c
  rw [if_pos hq] at hsq
  have hrt : rdvOk (freshAxis s a c) := by
    unfold rdvOk State.entry at hr ⊢
    rw [hrdv]
    exact hr
  generalize freshAxis s a c = t at hf hmg hsq hrt
  intro u
  have hu : u = haltEvent 5 a .stopAll .soft false t := haltCause_live _ _ _ (.inl hsq)
  have hh : Halting t u := halting_haltCause ..
  clear_value u
  obtain ⟨x, y, hp, hs⟩ := seq_haltEvent t a .stopAll .soft false 4 (.inr hrt)
  rw [← hu] at hs
  have hst : (stopped t a .soft).motion = .still := by
    change ((t.mg a).softStop (t.cfg a).stopDecel).motion = .still
    have hmt : (t.mg a).motion = .still := by rw [hmg, hm]
    rw [softStop_still _ _ hmt]
    exact hmt
  refine ⟨freshened_halting s a c hh ?_ hf, ?_, ?_⟩
  · obtain ⟨hc, -, -, -, -, -, hn, hpp⟩ := hf
    rw [hs]
    rcases hp with ⟨hx, hy⟩ | ⟨hx, hy⟩
    · exact ⟨hx, hy⟩
    · rw [hc, hmg] at hx hy
      exact ⟨hx.trans hn.symm, hy.trans hpp.symm⟩
  · rw [hs]
    exact if_pos hst
  · rw [hs]

/-! ### Disabled -/

theorem disableAxis_own (h : rdvOk s) : Halting s (s.disableAxis a) ∧
    (s.disableAxis a).seq a = { s.seq a with sq := .off, reason := none } := by
  have h1 : Halting s (s.modSeq a fun q => { q with sq := .off, reason := none }) := by
    refine halting_modSeq s a _ ⟨rfl, rfl⟩ ?_
    rintro (h | ⟨_, h⟩ | h) <;> cases h
  have hq : (s.modSeq a fun q => { q with sq := .off, reason := none }).seq a = { s.seq a with sq := .off, reason := none } := by
    rw [seq_modSeq, if_pos rfl]
  unfold State.disableAxis
  generalize (s.modSeq a fun q => { q with sq := .off, reason := none }) = t at h1 hq
  have h2 := h1.trans (halting_breakFor t a)
  have hu := unarrived_breakFor t a (h1.rdvOk h)
  have hm (b : Axis) (hb : b ∈ members (t.breakFor a).2) : a ≠ b :=
    ((mem_breakFor t a b).1 ((mem_members _ _).1 hb)).1.symm
  have hq2 := (axis_congr (breakFor_axes t a) a).1.trans hq
  dsimp only
  generalize members (t.breakFor a).2 = l at hm
  generalize (t.breakFor a).1 = u at h2 hu hq2
  have hh (v : State) (b : Axis) : Halting v (v.haltCause b .group .soft false) := halting_haltCause v b _ _ _
  have hb := Bystander.foldl (f := fun s b => s.haltCause b .group .soft false) hh
    (fun v b hb hv => bystander_haltCause v b .group .soft false (hm b hb) hv) u hu
  refine ⟨h2.trans (Halting.foldl _ hh u), ?_⟩
  rw [hb.seq_eq (by rw [hq2]; exact fun k => by cases k), hq2]

/-- The axis with its new items, its window discarded. -/
def discardedAxis : State × BitVec 16 × Nat := (s.modAxis a fun y => { y with cfg := c }).discard a (s.inFlight a)

theorem discardedAxis_keeps : (discardedAxis s a c).1.cfg a = c ∧ ((discardedAxis s a c).1.mg a).pos = (s.mg a).pos ∧
    (discardedAxis s a c).1.lines = s.lines ∧ ((discardedAxis s a c).1.seq a).window = [] ∧
    (rdvOk s → rdvOk (discardedAxis s a c).1) ∧
    (discardedAxis s a c).2 = ((s.seq a).window.head?.elim (s.ring (axisRing a)).seqNo Entry.seq,
      (s.seq a).window.length + s.inFlight a) := by
  have hc : (s.modAxis a fun y => { y with cfg := c }).cfg a = c := by rw [cfg_modAxis, if_pos rfl]
  have hm : (s.modAxis a fun y => { y with cfg := c }).mg a = s.mg a := by
    rw [mg_modAxis, if_pos rfl]
    rfl
  have hq : (s.modAxis a fun y => { y with cfg := c }).seq a = s.seq a := by
    rw [seq_modAxis, if_pos rfl]
    rfl
  have hl : (s.modAxis a fun y => { y with cfg := c }).lines = s.lines := rfl
  have hr : (s.modAxis a fun y => { y with cfg := c }).rdv = s.rdv := rfl
  have hg : (s.modAxis a fun y => { y with cfg := c }).ring (axisRing a) = s.ring (axisRing a) := rfl
  unfold discardedAxis
  generalize (s.modAxis a fun y => { y with cfg := c }) = t at hc hm hq hl hr hg
  generalize s.inFlight a = n
  have d := does_discard t a n
  have h := halting_discard t a n
  refine ⟨(d.cfg a).trans hc, ?_, d.lines.trans hl, ?_, fun k => h.rdvOk ?_, ?_⟩
  · rw [h.pos, mg_dropped, hm]
  · rw [seq_discard_self]
  · unfold rdvOk State.entry at k ⊢
    rw [rdv_dropped, hr]
    exact k
  · refine Prod.ext ?_ (congrArg (fun q : Seq => q.window.length + n) hq)
    change t.flushFirst a = _
    unfold State.flushFirst
    rw [hq, hg]
    cases (s.seq a).window <;> rfl

end

theorem configDisabled_eq (s : State) (a : Axis) (c : AxisConfig) : s.configDisabled a c =
    (((discardedAxis s a c).1.disableAxis a).refreshAxis a,
      .ok ((((discardedAxis s a c).1.disableAxis a).refreshAxis a).sqByte a)
        (BitVec.ofNat 32 (discardedAxis s a c).2.2) ((discardedAxis s a c).2.1.setWidth 32)) := rfl

/-- Settles O37: the refreshed axis, which the halts that follow keep. -/
theorem configAxisEffect : Obligations.ConfigAxisEffect := by
  intro s a c
  refine ⟨?_, fun hr => ?_⟩
  · obtain ⟨u, hu, e, free, halts⟩ := configEnabled_cases s a c
    have hf := freshened_freshAxis s a c
    rw [e]
    refine ⟨(hu.cfg a).trans hf.1, rfl, fun k => ?_, fun hq hs hm hr => ?_⟩
    · rw [free k]
      exact ⟨hf, seq_freshAxis s a c⟩
    · rw [halts hq hs]
      exact stopped_freshAxis s a c hq hm hr
  · obtain ⟨hc, hp, hl, hw, hd, h2⟩ := discardedAxis_keeps s a c
    rw [configDisabled_eq, h2]
    generalize (discardedAxis s a c).1 = t at hc hp hl hw hd
    obtain ⟨h, hq⟩ := disableAxis_own t a (hd hr)
    have hf := freshened_refreshAxis s a c ((h.cfg a).trans hc) ((h.pos a).trans hp) (h.lines.trans hl)
    have hs := seq_refreshAxis (t.disableAxis a) a
    generalize t.disableAxis a = u at hq hf hs
    rw [hq] at hs
    generalize u.refreshAxis a = v at hf hs
    refine ⟨hf, by rw [hs], by rw [hs], by rw [hs]; exact hw, ?_⟩
    unfold State.sqByte
    rw [hs]
    rfl

end Sys2Proof.Proofs

/-! The place arbiter, the order of claims made at one event, and what follows every event (R155, R156). -/

namespace Sys2Proof.Proofs

open Sys2Proof.Machine Sys2Proof.Safety Sys2Proof.Laws

/-! ### One grant -/

section
variable (s : State)

/-- The places that are not FREE. -/
def usedPlaces : Nat :=
  s.queue.reserved.length + s.queue.filled.length + (if s.queue.writing = none then 0 else 1)

theorem free_eq : s.queue.free = 8 - usedPlaces s := by
  unfold usedPlaces Queue.free Queue.held placeCount
  cases s.queue.writing <;> simp

theorem serveOnce_inactive (h : ¬ (s.dev = .run ∨ s.dev = .drain) ∨ 8 ≤ usedPlaces s) : s.serveOnce = none := by
  unfold State.serveOnce
  refine if_pos ?_
  rw [Bool.or_eq_true, Bool.not_eq_true', decide_eq_true_eq, ← Bool.not_eq_true, active_iff, free_eq]
  exact h.imp_right fun k => by omega

/-- Where the arbiter can place, it serves by R155. -/
theorem serveOnce_active (hd : s.dev = .run ∨ s.dev = .drain) (hu : usedPlaces s < 8) : s.serveOnce =
    if !s.owed.isEmpty then some s.placeFirstOwed
    else if s.cte = .claim then some s.grantCte
    else
      match s.claims with
      | c :: _ => if s.need c ≤ s.queue.free then some (s.grantClaim c) else none
      | [] => none := by
  unfold State.serveOnce
  refine if_neg ?_
  rw [Bool.or_eq_true, Bool.not_eq_true', decide_eq_true_eq, ← Bool.not_eq_true, active_iff, free_eq]
  rintro (k | k)
  · exact k hd
  · omega

theorem grantCte_eq (hu : usedPlaces s < 8) : s.grantCte =
    { s.modRing ctl (fun x => { x with fetch := .inFlight }) with
      cte := .fetch
      queue := { s.queue with reserved := s.queue.reserved ++ [.cte] } } := by
  have hr : s.reserve .cte = { s with queue := { s.queue with reserved := s.queue.reserved ++ [.cte] } } :=
    if_pos (by rw [free_eq]; omega)
  unfold State.grantCte
  rw [hr]
  rfl

/-- The arbiter after its grant, where there is one. -/
def served (u : State) : State := u.serveOnce.getD u

/-- The arbiter serves until it grants nothing more, within a bound. -/
theorem serveUpTo_iterate (k : Nat) : ∀ s : State, ∃ n ≤ k, serveUpTo k s = served^[n] s ∧
    (∀ i < n, (served^[i] s).serveOnce ≠ none) ∧ (n < k → (serveUpTo k s).serveOnce = none) := by
  induction k with
  | zero => exact fun s => ⟨0, le_rfl, rfl, fun i h => absurd h (Nat.not_lt_zero i), fun h => absurd h (lt_irrefl 0)⟩
  | succ k ih =>
    intro s
    rw [serveUpTo]
    cases h : s.serveOnce with
    | none => exact ⟨0, Nat.zero_le _, rfl, fun i h => absurd h (Nat.not_lt_zero i), fun _ => h⟩
    | some t =>
      have ht : served s = t := by rw [served, h, Option.getD_some]
      obtain ⟨n, hn, e, before, after⟩ := ih t
      refine ⟨n + 1, Nat.succ_le_succ hn, ?_, fun i hi => ?_, fun k => after (Nat.lt_of_succ_lt_succ k)⟩
      · rw [Function.iterate_succ_apply, ht]
        exact e
      · cases i with
        | zero => exact fun k => by rw [Function.iterate_zero_apply, h] at k; cases k
        | succ i =>
          rw [Function.iterate_succ_apply, ht]
          exact before i (Nat.lt_of_succ_lt_succ hi)

/-! ### The placement of a notice -/

/-- The placement of the first owed notice, whose record is `c`. -/
theorem placeFirstOwed_free {o : Owed} {rest : List Owed} {c : Completion} (ho : s.owed = o :: rest)
    (hf : usedPlaces s < 8) (hn : noticeRecord s o = some c) : s.placeFirstOwed =
    sourcePlaced { s with owed := rest, queue := { s.queue with filled := s.queue.filled ++ [c] } } o := by
  rw [placeFirstOwed_cons s ho hn, placeRecord_free { s with owed := rest } c (by
    rw [free_eq]
    unfold usedPlaces at hf ⊢
    dsimp only
    omega)]

theorem sourcePlaced_armed {u : UnitNo} {c : CapConfig} {p : CapPending} (h : s.cap u = .armedPending c p) :
    sourcePlaced s (.capture u) = s.setCap u (if s.dev = .drain then .disarmed else .armed c) := by
  simp only [sourcePlaced, h]

theorem sourcePlaced_spent {u : UnitNo} {c : CapConfig} {p : CapPending} (h : s.cap u = .spentPending c p) :
    sourcePlaced s (.capture u) = s.setCap u .disarmed := by
  simp only [sourcePlaced, h]

/-! ### Several axes served at one event -/

theorem takeAll_state (l : List (Axis × (State → State))) : ∀ s : State, (takeAll l s).1 = l.foldl (fun u x => x.2 u) s := by
  induction l with
  | nil => exact fun _ => rfl
  | cons x l ih => exact fun s => ih (x.2 s)

theorem claimStep_le (a : Axis) (c : Claim) : s.claimStep a c ≤ 2 := by
  unfold State.claimStep
  split
  · exact le_rfl
  · split
    · exact le_rfl
    · split <;> omega

theorem claimRank_lt (a : Axis) (c : Claim) : s.claimRank a c < 12 := by
  have h := claimStep_le s a c
  have h' := (s.claimAxis c).isLt
  unfold State.claimRank
  omega

/-- Two items in the order of their ranks. -/
theorem ranked_pair (c d : Claim) (i j : Nat) (n : Nat) :
    (List.range n).flatMap (fun k => ([(i, c), (j, d)].filter (·.1 == k)).map (·.2)) =
      if i < n ∧ j < n then (if j < i then [d, c] else [c, d])
      else if i < n then [c] else if j < n then [d] else [] := by
  induction n with
  | zero => simp
  | succ n ih =>
    rw [List.range_succ, List.flatMap_append, ih]
    have at_n : ([(i, c), (j, d)].filter (fun x => x.1 == n)).map (fun x => x.2) =
        (if i = n then [c] else []) ++ (if j = n then [d] else []) := by
      by_cases hi : i = n <;> by_cases hj : j = n <;> simp [hi, hj]
    rw [List.flatMap_singleton, at_n]
    clear ih at_n
    split_ifs <;> simp_all <;> omega

/-- The claims made by one service. -/
theorem made_one {l : List Claim} {c : Claim} (h : c ∉ l) : (l ++ [c]).filter (fun x => !l.contains x) = [c] := by
  rw [List.filter_append, List.filter_eq_nil_iff.2 (by simp), List.filter_cons_of_pos (by simpa using h)]
  rfl

theorem atOneStep_pair (a b : Axis) (f g : State → State) (c d : Claim) (hc : c ∉ s.claims) (hd : d ∉ s.claims)
    (hcd : c ≠ d) (hf : (f s).claims = s.claims ++ [c]) (hg : (g (f s)).claims = s.claims ++ [c, d]) :
    (s.atOneStep [(a, f), (b, g)]).claims = s.claims ++
      if (g (f s)).claimRank b d < (f s).claimRank a c then [d, c] else [c, d] := by
  have m1 : (f s).claims.filter (fun x => !s.claims.contains x) = [c] := by
    rw [hf]
    exact made_one hc
  have m2 : (g (f s)).claims.filter (fun x => !(f s).claims.contains x) = [d] := by
    rw [hg, hf, show s.claims ++ [c, d] = (s.claims ++ [c]) ++ [d] by simp]
    exact made_one (by simp [hd, Ne.symm hcd])
  have hi := claimRank_lt (f s) a c
  have hj := claimRank_lt (g (f s)) b d
  unfold State.atOneStep takeAll takeAll takeAll
  dsimp only
  rw [m1, m2]
  simp only [List.map_cons, List.map_nil, List.singleton_append, List.append_nil]
  generalize (f s).claimRank a c = i at hi ⊢
  generalize (g (f s)).claimRank b d = j at hj ⊢
  unfold State.orderClaims
  have hk : ([(i, c), (j, d)].filter fun x => (g (f s)).claims.contains x.2) = [(i, c), (j, d)] := by
    rw [hg]
    simp
  have hn := ranked_pair c d i j 12
  rw [if_pos ⟨hi, hj⟩] at hn
  dsimp only
  rw [hk, hn, hg]
  refine congrArg (· ++ _) ?_
  rw [List.filter_append, List.filter_eq_self.2, List.filter_eq_nil_iff.2, List.append_nil]
  · intro x hx
    split_ifs <;> simp at hx ⊢ <;> tauto
  · intro x hx
    have h1 : x ≠ c := fun k => hc (k ▸ hx)
    have h2 : x ≠ d := fun k => hd (k ▸ hx)
    split_ifs <;> simp [h1, h2]

/-! ### Ranks -/

theorem first_member : ∀ (m : BitVec 4) (b : Axis), inSet b m = true → (∀ d, d < b → inSet d m = false) →
    (members m).headD 0 = b := by decide

/-- The candidate of the axis waits on a signal. -/
def WaitsSignal (b : Axis) : Prop :=
  ∃ x y n, (s.seq b).candidate = some x ∧ x.seg.body = some y ∧ y.start = .waitSignal n

theorem claimStep_axis {a b : Axis} (h : b ≠ a) : (WaitsSignal s b → s.claimStep a (.axis b) = 1) ∧
    (¬ WaitsSignal s b → s.claimStep a (.axis b) = 0) := by
  unfold State.claimStep
  dsimp only
  rw [if_neg h]
  refine ⟨fun ⟨x, y, n, hx, hy, hn⟩ => ?_, fun k => ?_⟩
  · simp only [hx, Option.bind_some, hy, Option.map_some, hn]
  · split
    next n hs =>
      obtain ⟨x, hx, hs⟩ := Option.bind_eq_some_iff.1 hs
      obtain ⟨y, hy, hs⟩ := Option.map_eq_some_iff.1 hs
      exact absurd ⟨x, y, n, hx, hy, hs⟩ k
    · rfl

end

/-- Settles O59: one grant by its guards, the iteration, the placements by kind, and the ranks of claims. -/
theorem arbiterServesInItsOrder : Obligations.ArbiterServesInItsOrder := by
  refine ⟨fun s => ?_, fun s => ?_, fun s o rest ho hf => ?_, ⟨fun s l => ?_, fun s a b f g c d => atOneStep_pair s a b f g c d,
    fun s a b e => ?_⟩, fun s => rfl⟩
  · intro on used
    refine ⟨serveOnce_inactive s, fun hd hu ho => ?_, fun hd hu ho hc => ?_, fun hd hu ho hc => ⟨fun hl => ?_, fun c rest hl => ?_⟩⟩ <;>
      rw [serveOnce_active s hd hu]
    · exact if_pos (by simpa using ho)
    · rw [ho, if_neg (by simp), if_pos hc, grantCte_eq s hu]
    · rw [ho, if_neg (by simp), if_neg hc, hl]
    · rw [ho, if_neg (by simp), if_neg hc, hl, free_eq]
      exact ⟨fun hn => if_pos hn, fun hn => if_neg (not_le.2 hn)⟩
  · exact serveUpTo_iterate 64 s
  · have place {c : Completion} (hn : noticeRecord s o = some c) := placeFirstOwed_free s ho hf hn
    intro t placed
    cases o with
    | axisHalted a r second p v w =>
      have e : t = _ := place rfl
      rw [show placed = fun c => t.queue = { s.queue with filled := s.queue.filled ++ [c] } ∧ t.owed = rest from rfl, e]
      exact ⟨⟨rfl, rfl⟩, rfl, rfl⟩
    | drainFlush a count first w =>
      have e : t = _ := place rfl
      rw [show placed = fun c => t.queue = { s.queue with filled := s.queue.filled ++ [c] } ∧ t.owed = rest from rfl, e]
      exact ⟨⟨rfl, rfl⟩, rfl, rfl⟩
    | signalOverflow =>
      have e : t = _ := place rfl
      rw [show placed = fun c => t.queue = { s.queue with filled := s.queue.filled ++ [c] } ∧ t.owed = rest from rfl, e]
      exact ⟨⟨rfl, rfl⟩, rfl, rfl⟩
    | capture u =>
      intro c p note
      rw [show placed = fun c => t.queue = { s.queue with filled := s.queue.filled ++ [c] } ∧ t.owed = rest from rfl]
      refine ⟨fun hc => ?_, fun hc => ?_⟩
      · have e : t = _ := (place (c := note) (by simp only [noticeRecord, hc]; rfl)).trans (sourcePlaced_armed _ hc)
        rw [e]
        exact ⟨⟨rfl, rfl⟩, (cap_setCap ..).trans (if_pos rfl)⟩
      · have e : t = _ := (place (c := note) (by simp only [noticeRecord, hc]; rfl)).trans (sourcePlaced_spent _ hc)
        rw [e]
        exact ⟨⟨rfl, rfl⟩, (cap_setCap ..).trans (if_pos rfl)⟩
  · unfold State.atOneStep State.orderClaims
    rw [← takeAll_state]
  · refine ⟨?_, fun h hs => ?_, fun h hs => ?_, fun hb hl => ?_⟩
    · unfold State.claimRank State.claimStep
      simp [State.claimAxis]
    · unfold State.claimRank
      rw [(claimStep_axis s h).1 hs]
      rfl
    · unfold State.claimRank
      rw [(claimStep_axis s h).2 hs]
      simp [State.claimAxis]
    · unfold State.claimRank State.claimAxis State.claimStep
      dsimp only
      rw [first_member _ b hb hl]

end Sys2Proof.Proofs

/-! What a halt event leaves exactly: the waiter lists and the claims (R15, R35, R36), the notice or the record of the
axis (R98, R99), and a waiting BARRIER (R147). -/

namespace Sys2Proof.Proofs

open Sys2Proof.Machine Sys2Proof.Safety Sys2Proof.Laws

/-! ### Leaving every list -/

section
variable (s : State) (a : Axis)

/-- The axis waits behind the leaving one at the head of a list of `l`, whose count is above 0 (R36). -/
def FollowsIn (l : List SignalNo) (b : Axis) : Prop :=
  (∃ n ∈ l, nextWaiter s a n = some b) ∧ (s.seq b).sq = .wait .cond

/-- What the departure from some lists leaves. -/
structure LeftLists (l : List SignalNo) (t : State) : Prop where
  rest : { t with axes := s.axes, claims := s.claims, signals := s.signals } = s
  mg : ∀ b, t.mg b = s.mg b
  signal : ∀ n, t.signal n = if n ∈ l then { s.signal n with waiters := (s.signal n).waiters.filter (· != a) } else s.signal n
  seq : ∀ b, (FollowsIn s a l b → t.seq b = waitsWith (s.seq b) .waitStart .place) ∧ (¬ FollowsIn s a l b → t.seq b = s.seq b)
  claims : ∃ new : List Axis, t.claims = s.claims ++ new.map Claim.axis ∧ new.Nodup ∧ ∀ b, b ∈ new ↔ FollowsIn s a l b

theorem followsIn_append (l : List SignalNo) (n : SignalNo) (b : Axis) : FollowsIn s a (l ++ [n]) b ↔
    FollowsIn s a l b ∨ nextWaiter s a n = some b ∧ (s.seq b).sq = .wait .cond := by
  unfold FollowsIn
  constructor
  · rintro ⟨⟨m, hm, h⟩, hq⟩
    rcases List.mem_append.1 hm with hm | hm
    · exact .inl ⟨⟨m, hm, h⟩, hq⟩
    · exact .inr ⟨List.mem_singleton.1 hm ▸ h, hq⟩
  · rintro (⟨⟨m, hm, h⟩, hq⟩ | ⟨h, hq⟩)
    · exact ⟨⟨m, List.mem_append_left _ hm, h⟩, hq⟩
    · exact ⟨⟨n, by simp, h⟩, hq⟩

theorem leftLists (l : List SignalNo) (hl : l.Nodup) : LeftLists s a l (forEach l (State.leaveList a) s) := by
  induction l using List.reverseRecOn with
  | nil =>
    have no (b : Axis) : ¬ FollowsIn s a [] b := fun ⟨⟨n, hn, _⟩, _⟩ => nomatch hn
    exact ⟨rfl, fun _ => rfl, fun n => (if_neg (by simp)).symm, fun b => ⟨fun h => absurd h (no b), fun _ => rfl⟩,
      [], by simp, List.nodup_nil, fun b => iff_of_false (by simp) (no b)⟩
  | append_singleton l n ih =>
    obtain ⟨hl, -, hd⟩ := List.nodup_append.1 hl
    have hn : n ∉ l := fun k => hd n k n (List.mem_singleton.2 rfl) rfl
    have h := ih hl
    have e : forEach (l ++ [n]) (State.leaveList a) s = State.leaveList a n (forEach l (State.leaveList a) s) :=
      List.foldl_append ..
    rw [e]
    generalize forEach l (State.leaveList a) s = t at h
    have hs : t.signal n = s.signal n := by rw [h.signal, if_neg hn]
    have hw : nextWaiter t a n = nextWaiter s a n := by unfold nextWaiter; rw [hs]
    have waits (b : Axis) : (t.seq b).sq = .wait .cond ↔ (s.seq b).sq = .wait .cond ∧ ¬ FollowsIn s a l b := by
      by_cases hf : FollowsIn s a l b
      · rw [(h.seq b).1 hf]
        exact iff_of_false (fun k => by cases k) fun k => k.2 hf
      · rw [(h.seq b).2 hf]
        exact ⟨fun k => ⟨k, hf⟩, fun k => k.1⟩
    refine ⟨?_, fun b => ?_, fun m => ?_, fun b => ?_, ?_⟩
    · obtain ⟨v, c, w, k⟩ := leaveList_frame t a n
      rw [k]
      exact h.rest
    · rw [mg_leaveList, h.mg]
    · rw [signal_leaveList]
      by_cases hm : m = n
      · subst hm
        rw [if_pos rfl, hs, if_pos (by simp)]
      · rw [if_neg hm, h.signal]
        simp [hm]
    · rw [seq_leaveList, hw, followsIn_append]
      have hwb := waits b
      by_cases hf : FollowsIn s a l b
      · rw [if_neg fun k => (hwb.1 k.2).2 hf, (h.seq b).1 hf]
        exact ⟨fun _ => rfl, fun k => absurd (.inl hf) k⟩
      · rw [(h.seq b).2 hf]
        refine ⟨fun k => ?_, fun k => if_neg fun k' => k (.inr ⟨k'.1, k'.2⟩)⟩
        obtain ⟨k1, k2⟩ := k.resolve_left hf
        exact if_pos ⟨k1, k2⟩
    · obtain ⟨new, hc, hnew, hmem⟩ := h.claims
      have hx := claims_leaveList t a n
      rw [hw] at hx
      have same (hx' : (State.leaveList a n t).claims = t.claims ++ [])
          (no : ∀ b, nextWaiter s a n = some b ∧ (s.seq b).sq = .wait .cond → FollowsIn s a l b) :
          ∃ new : List Axis, (State.leaveList a n t).claims = s.claims ++ new.map Claim.axis ∧ new.Nodup ∧
            ∀ b, b ∈ new ↔ FollowsIn s a (l ++ [n]) b :=
        ⟨new, by rw [hx', List.append_nil, hc], hnew, fun b => by
          rw [hmem, followsIn_append]
          exact ⟨.inl, fun k => k.elim id (no b)⟩⟩
      cases ha : nextWaiter s a n with
      | none =>
        rw [ha] at hx
        exact same hx fun b k => by rw [ha] at k; cases k.1
      | some c =>
        rw [ha] at hx
        dsimp only at hx
        have only (b : Axis) (hb : nextWaiter s a n = some b) : b = c := Option.some.inj (hb.symm.trans ha)
        by_cases hq : (t.seq c).sq = .wait .cond
        · rw [if_pos hq] at hx
          obtain ⟨hqs, hcf⟩ := (waits c).1 hq
          refine ⟨new ++ [c], by rw [hx, hc, List.map_append, List.append_assoc]; rfl, ?_, fun b => ?_⟩
          · rw [List.nodup_append]
            exact ⟨hnew, List.nodup_singleton c, fun x hx y hy k => by
              rw [List.mem_singleton.1 hy] at k
              exact hcf ((hmem c).1 (k ▸ hx))⟩
          · rw [List.mem_append, hmem, followsIn_append, List.mem_singleton]
            refine or_congr Iff.rfl ⟨fun k => ?_, fun k => only b k.1⟩
            rw [k]
            exact ⟨ha, hqs⟩
        · rw [if_neg hq] at hx
          refine same hx fun b k => ?_
          obtain rfl := only b k.1
          by_contra hcf
          exact hq ((waits _).2 ⟨k.2, hcf⟩)

/-- An axis behind the leaving one at the head of its list (R36). -/
def Follows (b : Axis) : Prop := (∃ n, nextWaiter s a n = some b) ∧ (s.seq b).sq = .wait .cond

theorem mem_allSignals (n : SignalNo) : n ∈ allSignals := by revert n; decide

theorem followsIn_all (b : Axis) : FollowsIn s a allSignals b ↔ Follows s a b := by
  unfold FollowsIn Follows
  simp only [mem_allSignals, true_and]

theorem follows_ne {b : Axis} (h : Follows s a b) : b ≠ a := by
  obtain ⟨⟨n, h⟩, -⟩ := h
  exact nextWaiter_ne s a n h

/-- What the withdrawals leave (R97 step 4). -/
structure Withdrawn (t : State) : Prop where
  rest : { t with axes := s.axes, claims := s.claims, signals := s.signals } = s
  signal : ∀ n, t.signal n = { s.signal n with waiters := (s.signal n).waiters.filter (· != a) }
  seq : ∀ b, b ≠ a → (Follows s a b → t.seq b = waitsWith (s.seq b) .waitStart .place) ∧ (¬ Follows s a b → t.seq b = s.seq b)
  claims : ∃ new : List Axis, t.claims = s.claims.filter (· != Claim.axis a) ++ new.map Claim.axis ∧ new.Nodup ∧
    ∀ b, b ∈ new ↔ Follows s a b

theorem withdrawn : Withdrawn s a (s.withdraw a) := by
  have h := leftLists (s.dropClaim (.axis a)) a allSignals (by decide)
  have hf (b : Axis) : FollowsIn (s.dropClaim (.axis a)) a allSignals b ↔ Follows s a b := followsIn_all s a b
  rw [withdraw_eq]
  unfold released State.leaveWaiters
  generalize forEach allSignals (State.leaveList a) (s.dropClaim (.axis a)) = t at h
  obtain ⟨v, hv⟩ := removeWatchers_eq t a
  have hq := seq_removeWatchers t a
  generalize t.removeWatchers a = u at hv hq
  refine ⟨?_, fun n => ?_, fun b hb => ?_, ?_⟩
  · rw [hv]
    have := h.rest
    exact congrArg (fun x : State => { x with claims := s.claims }) this
  · rw [signal_modSeq, hv]
    refine (h.signal n).trans ?_
    rw [if_pos (mem_allSignals n)]
    rfl
  · rw [seq_modSeq, if_neg hb, hq]
    obtain ⟨h1, h2⟩ := h.seq b
    rw [hf] at h1 h2
    exact ⟨h1, h2⟩
  · obtain ⟨new, hc, hn, hm⟩ := h.claims
    refine ⟨new, ?_, hn, fun b => (hm b).trans (hf b)⟩
    rw [hv]
    exact hc

end

end Sys2Proof.Proofs

/-! The notice or the record of a halt event (R98, R99, R155, R156), its claims, lists and entries, and the BARRIER
that waits for its axis (R147). -/

namespace Sys2Proof.Proofs

open Sys2Proof.Machine Sys2Proof.Safety Sys2Proof.Laws

/-! ### A notice is owed on or placed -/

section
variable {o : Owed} {c : Completion} (hn : ∀ u, noticeRecord u o = some c)
include hn

theorem notice_placeFirstOwed {s : State} (hf : 0 < s.queue.free) (h : o ∈ s.owed ∨ c ∈ s.queue.filled) :
    o ∈ s.placeFirstOwed.owed ∨ c ∈ s.placeFirstOwed.queue.filled := by
  have hp := (placeFirstOwed_halting s hf).filled
  rcases h with h | h
  · cases ho : s.owed with
    | nil => rw [ho] at h; cases h
    | cons x rest =>
      rw [ho] at h
      rcases List.mem_cons.1 h with rfl | h
      · rw [placeFirstOwed_cons s ho (hn s), placeRecord_free { s with owed := rest } c hf]
        obtain ⟨v, m, e⟩ := sourcePlaced_eq { s with owed := rest, queue := { s.queue with filled := s.queue.filled ++ [c] } } o
        rw [e]
        exact .inr (List.mem_append_right _ (List.mem_singleton.2 rfl))
      · refine .inl ?_
        unfold State.placeFirstOwed
        rw [ho]
        dsimp only
        split
        next c' _ =>
          rw [placeRecord_free { s with owed := rest } c' hf]
          obtain ⟨v, m, e⟩ := sourcePlaced_eq { s with owed := rest, queue := { s.queue with filled := s.queue.filled ++ [c'] } } x
          rw [e]
          exact h
        · exact h
  · exact .inr (hp.mem h)

theorem notice_serveOwedUpTo (n : Nat) : ∀ s : State, o ∈ s.owed ∨ c ∈ s.queue.filled →
    o ∈ (serveOwedUpTo n s).owed ∨ c ∈ (serveOwedUpTo n s).queue.filled := by
  induction n with
  | zero => exact fun _ h => h
  | succ n ih =>
    intro s h
    rw [serveOwedUpTo]
    by_cases hg : (s.active && decide (0 < s.queue.free) && !s.owed.isEmpty) = true
    · rw [if_pos hg]
      simp only [Bool.and_eq_true, decide_eq_true_eq] at hg
      exact ih _ (notice_placeFirstOwed hn hg.1.2 h)
    · rw [if_neg hg]
      exact h

/-- A notice that becomes owed is owed on or placed at the same event. -/
theorem notice_owe (s : State) : o ∈ (s.owe o).owed ∨ c ∈ (s.owe o).queue.filled :=
  notice_serveOwedUpTo hn _ { s with owed := s.owed ++ [o] } (.inl (by simp))

/-- Another notice that becomes owed leaves it so. -/
theorem notice_owe_other (s : State) (o' : Owed) (h : o ∈ s.owed ∨ c ∈ s.queue.filled) :
    o ∈ (s.owe o').owed ∨ c ∈ (s.owe o').queue.filled :=
  notice_serveOwedUpTo hn _ { s with owed := s.owed ++ [o'] } (h.imp_left (List.mem_append_left _))

end

/-! ### The record or the notice -/

section
variable (s : State) (a : Axis) (r : HaltReason) (k : StopKind)

/-- The halt event up to its record or its notice (R97 step 3). -/
def noted : State := (haltStop s a r k).abortOrOwe s a r

/-- The notice of the halt event. -/
def haltNote : Owed := .axisHalted a r none (BitVec.ofInt 32 (s.mg a).pos) (BitVec.ofInt 32 (s.mg a).velocity) s.time

theorem haltStop_frame : ∃ v, haltStop s a r k = { s with axes := v } := ⟨_, rfl⟩

theorem noted_active {e : Entry} (h : (s.seq a).activeEntry = some e) : (noted s a r k).owed = s.owed ∧
    (noted s a r k).queue = (s.fill (.axis a) (segAborted s a e r)).queue := by
  obtain ⟨v, hv⟩ := haltStop_frame s a r k
  unfold noted State.abortOrOwe
  rw [h, hv]
  dsimp only
  have hf : ({ s with axes := v } : State).fill (.axis a) (segAborted s a e r) =
      { s.fill (.axis a) (segAborted s a e r) with axes := v } := by
    unfold State.fill
    dsimp only
    split <;> rfl
  rw [hf]
  have ho : (s.fill (.axis a) (segAborted s a e r)).owed = s.owed := by
    unfold State.fill
    split <;> rfl
  split <;> exact ⟨ho, rfl⟩

theorem noted_idle (h : (s.seq a).activeEntry = none) : noted s a r k =
    (haltStop s a r k).oweHalted a r (s.mg a).pos (s.mg a).velocity := by
  unfold noted State.abortOrOwe
  rw [h]

theorem any_haltNotice : s.owed.any (isHaltNotice a) = true ↔ ∃ o ∈ s.owed, isHaltNotice a o = true := List.any_eq_true

/-- A notice of the axis is owed already (R99). -/
theorem noted_second (h : (s.seq a).activeEntry = none) (ho : ∃ o ∈ s.owed, isHaltNotice a o = true) :
    (noted s a r k).owed = s.owed.map (addSecond a r) := by
  obtain ⟨v, hv⟩ := haltStop_frame s a r k
  rw [noted_idle s a r k h, hv]
  unfold State.oweHalted
  rw [if_pos ((any_haltNotice s a).2 ho)]
  rfl

/-- No notice of the axis is owed (R98). -/
theorem noted_owes (h : (s.seq a).activeEntry = none) (ho : ∀ o ∈ s.owed, isHaltNotice a o = false) :
    ∃ v, noted s a r k = ({ s with axes := v } : State).owe (haltNote s a r) := by
  obtain ⟨v, hv⟩ := haltStop_frame s a r k
  refine ⟨v, ?_⟩
  rw [noted_idle s a r k h, hv]
  unfold State.oweHalted
  refine if_neg fun hx => ?_
  obtain ⟨o, hm, hi⟩ := (any_haltNotice s a).1 hx
  rw [ho o hm] at hi
  cases hi

theorem fill_eq (h : Holder) (c : Completion) : ∃ q, s.fill h c = { s with queue := q } := by
  unfold State.fill
  split
  · exact ⟨_, rfl⟩
  · exact ⟨s.queue, rfl⟩

theorem reserved_fill {h h' : Holder} (c : Completion) (hne : h' ≠ h) (hr : h' ∈ s.queue.reserved) :
    h' ∈ (s.fill h c).queue.reserved := by
  unfold State.fill
  split
  · exact (List.mem_erase_of_ne hne).2 hr
  · exact hr

theorem seq_noted {b : Axis} (hb : b ≠ a) : (noted s a r k).seq b = s.seq b := by
  have hs : (haltStop s a r k).seq b = s.seq b := by
    unfold haltStop
    rw [seq_modMg, seq_modSeq, if_neg hb]
  unfold noted
  generalize haltStop s a r k = t at hs
  rw [← hs]
  unfold State.abortOrOwe
  split
  next e he =>
    have hr : ((t.fill (.axis a) (segAborted s a e r)).removeHead a).seq b = t.seq b := by
      unfold State.removeHead
      rw [seq_modSeq, if_neg hb, (axis_congr (fill_axes t _ _) b).1]
    dsimp only
    split
    · unfold State.recomputePosBlocks
      rw [seq_modSeq, if_neg hb, hr]
    · exact hr
  · exact (axis_congr (oweHalted_axes t a r _ _) b).1

/-- What the record or the notice of a halt event leaves alone. -/
theorem noted_eq : ∃ v q w c m, noted s a r k =
      { s with axes := v, queue := q, owed := w, caps := c, overflowMask := m } ∧
    (Holder.cte ∈ s.queue.reserved → Holder.cte ∈ q.reserved) := by
  obtain ⟨v, hv⟩ := haltStop_frame s a r k
  cases h : (s.seq a).activeEntry with
  | some e =>
    obtain ⟨q, hq⟩ := fill_eq { s with axes := v } (.axis a) (segAborted s a e r)
    have hc (hr : Holder.cte ∈ s.queue.reserved) := reserved_fill { s with axes := v } (h := .axis a) (h' := .cte)
      (segAborted s a e r) (fun k => by cases k) hr
    rw [hq] at hc
    unfold noted State.abortOrOwe
    rw [h, hv]
    dsimp only
    rw [hq]
    split
    · exact ⟨_, q, s.owed, s.caps, s.overflowMask, rfl, hc⟩
    · exact ⟨_, q, s.owed, s.caps, s.overflowMask, rfl, hc⟩
  | none =>
    rw [noted_idle s a r k h, hv]
    unfold State.oweHalted
    split
    · exact ⟨v, s.queue, _, s.caps, s.overflowMask, rfl, id⟩
    · obtain ⟨w, l, c, m, he⟩ := owe_eq { s with axes := v }
        (.axisHalted a r none (word32 (s.mg a).pos) (word32 (s.mg a).velocity) s.time)
      exact ⟨v, _, w, c, m, he, id⟩

theorem follows_noted (b : Axis) : Follows (noted s a r k) a b ↔ Follows s a b := by
  obtain ⟨v, q, w, c, m, h, -⟩ := noted_eq s a r k
  have hn (n : SignalNo) : nextWaiter (noted s a r k) a n = nextWaiter s a n := by rw [h]; rfl
  unfold Follows
  by_cases hb : b = a
  · subst hb
    exact iff_of_false (fun ⟨⟨n, h⟩, _⟩ => nextWaiter_ne _ b n h rfl) fun ⟨⟨n, h⟩, _⟩ => nextWaiter_ne _ b n h rfl
  · rw [seq_noted s a r k hb]
    simp only [hn]

/-! ### The event with its withdrawals -/

/-- A claim that stays at a halt event: not the axis's own, and no fire claim of an entry that it breaks (R15, R46). -/
def staysClaim (common : Bool) (c : Claim) : Bool :=
  match c with
  | .axis b => b != a
  | .fire e => common || !concerns s a e

/-- What a halt event leaves before its GROUP halts. -/
structure HaltLeft (common : Bool) (t : State) : Prop where
  owed : t.owed = (noted s a r k).owed
  filled : (noted s a r k).queue.filled <+: t.queue.filled
  signal : ∀ n, t.signal n = { s.signal n with waiters := (s.signal n).waiters.filter (· != a) }
  seq : ∀ b, b ≠ a → (Follows s a b → t.seq b = waitsWith (s.seq b) .waitStart .place) ∧ (¬ Follows s a b → t.seq b = s.seq b)
  claims : ∃ new : List Axis, t.claims = s.claims.filter (staysClaim s a common) ++ new.map Claim.axis ∧ new.Nodup ∧
    ∀ b, b ∈ new ↔ Follows s a b
  entry : ∀ e, t.entry e = if common = false ∧ concerns s a e = true then brokenBy a (s.entry e) else s.entry e

theorem haltFirst_eq : haltFirst s a r k = (noted s a r k).withdraw a := rfl

theorem entry_haltFirst (e : EntryNo) : (haltFirst s a r k).entry e = s.entry e := by
  obtain ⟨v, q, w, c, m, h, -⟩ := noted_eq s a r k
  have hw := (withdrawn (noted s a r k) a).rest
  rw [haltFirst_eq]
  generalize (noted s a r k).withdraw a = t at hw
  have ht : t.entry e = (noted s a r k).entry e := by
    rw [← hw]
    rfl
  rw [ht, h]
  rfl

theorem concerns_haltFirst (e : EntryNo) : concerns (haltFirst s a r k) a e = concerns s a e := by
  unfold concerns
  rw [entry_haltFirst]

/-- The lists and the claims after the withdrawals. -/
theorem haltFirst_left : (haltFirst s a r k).owed = (noted s a r k).owed ∧ (haltFirst s a r k).queue = (noted s a r k).queue ∧
    (haltFirst s a r k).cte = s.cte ∧ (haltFirst s a r k).time = s.time ∧
    (∀ n, (haltFirst s a r k).signal n = { s.signal n with waiters := (s.signal n).waiters.filter (· != a) }) ∧
    (∀ b, b ≠ a → (Follows s a b → (haltFirst s a r k).seq b = waitsWith (s.seq b) .waitStart .place) ∧
      (¬ Follows s a b → (haltFirst s a r k).seq b = s.seq b)) ∧
    ∃ new : List Axis, (haltFirst s a r k).claims = s.claims.filter (· != Claim.axis a) ++ new.map Claim.axis ∧ new.Nodup ∧
      ∀ b, b ∈ new ↔ Follows s a b := by
  obtain ⟨hrest, hs, hq, new, hc, hn, hm⟩ := withdrawn (noted s a r k) a
  obtain ⟨v, q, w, c, m, h, -⟩ := noted_eq s a r k
  have hsig (n : SignalNo) : (noted s a r k).signal n = s.signal n := by rw [h]; rfl
  have hcl : (noted s a r k).claims = s.claims := by rw [h]
  have hcte : (noted s a r k).cte = s.cte := by rw [h]
  have htime : (noted s a r k).time = s.time := by rw [h]
  have hf := follows_noted s a r k
  have hseq (b : Axis) (hb : b ≠ a) := seq_noted s a r k hb
  rw [haltFirst_eq]
  generalize noted s a r k = u at *
  generalize u.withdraw a = t at hrest hs hq hc ⊢
  refine ⟨?_, ?_, ?_, ?_, fun n => by rw [hs, hsig], fun b hb => ?_, new, by rw [hc, hcl], hn, fun b => (hm b).trans (hf b)⟩
  · rw [← hrest]
  · rw [← hrest]
  · rw [← hcte, ← hrest]
  · rw [← htime, ← hrest]
  · rw [← hf, ← hseq b hb]
    exact hq b hb

theorem axis_bne (b : Axis) : (Claim.axis b != Claim.axis a) = (b != a) := by
  rw [Bool.eq_iff_iff]
  simp

theorem filter_staysClaim_common : s.claims.filter (staysClaim s a true) = s.claims.filter (· != Claim.axis a) := by
  refine List.filter_congr fun c _ => ?_
  cases c with
  | axis b => exact (axis_bne a b).symm
  | fire e => rfl

theorem filter_staysClaim_alone : s.claims.filter (staysClaim s a false) =
    (s.claims.filter (· != Claim.axis a)).filter (dropsFire (concerns s a)) := by
  rw [List.filter_filter]
  refine List.filter_congr fun c _ => ?_
  cases c with
  | axis b => rw [axis_bne]; rfl
  | fire e => simp [staysClaim, dropsFire]

/-- The lists, the claims and the entries before the state of the axis changes (R97 steps 1 to 4). -/
theorem haltBreak_left (common : Bool) : HaltLeft s a r k common (haltBreak s a r k common).1 ∧
    (haltBreak s a r k common).1.queue = (noted s a r k).queue ∧ (haltBreak s a r k common).1.cte = s.cte ∧
    (haltBreak s a r k common).1.time = s.time := by
  obtain ⟨ho, hq, hct, hti, hs, hseq, new, hc, hn, hm⟩ := haltFirst_left s a r k
  have he := entry_haltFirst s a r k
  cases common with
  | true =>
    have e : (haltBreak s a r k true).1 = haltFirst s a r k := by rw [haltBreak_common]
    rw [e]
    generalize haltFirst s a r k = u at *
    refine ⟨⟨ho, hq ▸ List.prefix_refl _, hs, hseq, ⟨new, ?_, hn, hm⟩, fun e => ?_⟩, hq, hct, hti⟩
    · rw [filter_staysClaim_common, hc]
    · rw [he, if_neg fun k => by cases k.1]
  | false =>
    have hb := breakFor_eta (haltFirst s a r k) a
    have hbc := claims_breakFor (haltFirst s a r k) a
    have hbe := entry_breakFor (haltFirst s a r k) a
    have hcon : concerns (haltFirst s a r k) a = concerns s a := funext fun e => concerns_haltFirst s a r k e
    rw [hcon] at hbc hbe
    have e : (haltBreak s a r k false).1 = ((haltFirst s a r k).breakFor a).1 := by rw [haltBreak_alone]
    rw [e]
    generalize ((haltFirst s a r k).breakFor a).1 = t at hb hbc hbe ⊢
    generalize haltFirst s a r k = u at *
    refine ⟨⟨?_, ?_, fun n => ?_, fun b hb' => ?_, ⟨new, ?_, hn, hm⟩, fun e => ?_⟩, ?_, ?_, ?_⟩
    · rw [hb]; exact ho
    · rw [hb]; exact hq ▸ List.prefix_refl _
    · rw [hb]; exact hs n
    · rw [hb]; exact hseq b hb'
    · have hnew : (new.map Claim.axis).filter (dropsFire (concerns s a)) = new.map Claim.axis := by
        refine List.filter_eq_self.2 fun c hc => ?_
        obtain ⟨b, -, rfl⟩ := List.mem_map.1 hc
        rfl
      rw [filter_staysClaim_alone, hbc, hc, List.filter_append, hnew]
    · rw [hbe, he]
      simp only [true_and]
    · rw [hb]; exact hq
    · rw [hb]; exact hct
    · rw [hb]; exact hti

/-! ### The BARRIER -/

/-- The state of the halt event at which a waiting BARRIER is judged. -/
def judged (common : Bool) : State :=
  let p := (haltBreak s a r k common).1
  p.setSq a (if (p.mg a).isStill then .halted else .halting)

theorem haltSelf_eq (common : Bool) : haltSelf s a r k common = (judged s a r k common).barrierHalt a r := rfl

theorem judged_left (common : Bool) : HaltLeft s a r k common (judged s a r k common) ∧
    (judged s a r k common).queue = (noted s a r k).queue ∧ (judged s a r k common).cte = s.cte ∧
    (judged s a r k common).time = s.time := by
  obtain ⟨⟨ho, hf, hs, hseq, hc, he⟩, hq, hct, hti⟩ := haltBreak_left s a r k common
  unfold judged
  generalize (haltBreak s a r k common).1 = p at *
  refine ⟨⟨ho, hf, hs, fun b hb => ?_, hc, he⟩, hq, hct, hti⟩
  dsimp only
  rw [seq_setSq, if_neg hb]
  exact hseq b hb

theorem haltSelf_left (common : Bool) : HaltLeft s a r k common (haltSelf s a r k common) := by
  obtain ⟨⟨ho, hf, hs, hseq, hc, he⟩, -⟩ := judged_left s a r k common
  rw [haltSelf_eq]
  generalize judged s a r k common = p at *
  have hfill := (halting_barrierHalt p a r).filled
  have hsq := seq_barrierHalt p a r
  have hx : ∃ q c, p.barrierHalt a r = { p with queue := q, cte := c } := by
    unfold State.barrierHalt
    split
    · split
      · unfold State.endBarrier State.endCommand
        obtain ⟨q, hq⟩ := fill_eq p .cte (cmdDone p _ _ _ _)
        rw [hq]
        exact ⟨q, .idle, rfl⟩
      · exact ⟨p.queue, p.cte, rfl⟩
    · exact ⟨p.queue, p.cte, rfl⟩
  obtain ⟨q, c, hx⟩ := hx
  refine ⟨?_, hf.trans hfill, fun n => ?_, fun b hb => ?_, ?_, fun e => ?_⟩
  · rw [hx]; exact ho
  · rw [hx]; exact hs n
  · rw [hsq]; exact hseq b hb
  · rw [hx]; exact hc
  · rw [hx]; exact he e

end

end Sys2Proof.Proofs

/-! A halt cause by the state of the axis (R97 to R104). -/

namespace Sys2Proof.Proofs

open Sys2Proof.Machine Sys2Proof.Safety Sys2Proof.Laws

/-! ### The axis of the halt event -/

section
variable (s : State) (a : Axis) (r : HaltReason) (k : StopKind) (common : Bool)

/-- The halt event reaches no other axis: its cause is common, or no other axis had arrived at an entry of the axis. -/
def HaltsAlone : Prop := common = true ∨ ∀ (e : EntryNo) (b : Axis), (s.entry e).state = .opened →
  inSet a (s.entry e).members = true → inSet b (s.entry e).arrived = true → b = a

variable {s a r k common}

theorem haltEvent_alone (n : Nat) (h : HaltsAlone s a common) : haltEvent (n + 1) a r k common s = haltSelf s a r k common := by
  have hm : members (haltBreak s a r k common).2 = [] := by
    refine List.eq_nil_iff_forall_not_mem.2 fun b hb => ?_
    obtain ⟨hc, hne, e, ho, hmem, harr⟩ := mem_haltBreak s a r k common hb
    rw [entry_haltFirst] at ho hmem harr
    rcases h with h | h
    · rw [h] at hc; cases hc
    · exact hne (h e b ho hmem harr)
  rw [haltEvent_succ, hm, List.foldl_nil]

theorem stopped_eq : stopped s a k =
    match k with
    | .soft => (s.mg a).softStop (s.cfg a).stopDecel
    | .hard => (s.mg a).hardStop := by
  cases k <;> rfl

section
variable {t : State} (hs : Bystander a (haltSelf s a r k common) t) (hh : Halting (haltSelf s a r k common) t)

include hh in
/-- No MG watches for the axis any more (R30). -/
theorem watchers_haltEvent (w : Axis) : (t.mg w).watchers.get a = none := by
  rcases hh.watcher w a with h | h
  · rw [h, mg_haltSelf]
    exact setAt_get_self ..
  · exact h

include hs in
/-- The claim of the axis is withdrawn (R15). -/
theorem claims_haltEvent : Claim.axis a ∉ t.claims := by
  intro h
  rcases hs.claim h with h | h
  · obtain ⟨new, hc, -, hm⟩ := (haltSelf_left s a r k common).claims
    rw [hc, List.mem_append] at h
    rcases h with h | h
    · have := (List.mem_filter.1 h).2
      simp [staysClaim] at this
    · obtain ⟨b, hb, e⟩ := List.mem_map.1 h
      exact follows_ne s a ((hm b).1 hb) (Claim.axis.inj e)
  · obtain ⟨x, y, -, hq⟩ := seq_haltSelf s a r k common
    rw [hq] at h
    dsimp only at h
    split at h <;> cases h

include hh in
/-- The axis has left every waiter list, and no count has changed (R35, R36). -/
theorem signals_haltEvent (n : SignalNo) : a ∉ (t.signal n).waiters ∧ (t.signal n).count = (s.signal n).count := by
  obtain ⟨hc, hw⟩ := hh.signal n
  rw [(haltSelf_left s a r k common).signal n] at hc hw
  refine ⟨fun h => ?_, hc⟩
  have := (List.mem_filter.1 (hw.mem h)).2
  simp at this

end

/-! ### The window and the records -/

theorem disarmedEntry_seq (l : List Entry) : (l.map disarmedEntry).map Entry.seq = l.map Entry.seq := by
  rw [List.map_map]
  refine List.map_congr_left fun e _ => ?_
  unfold disarmedEntry
  rw [Function.comp_apply]
  split <;> rfl

theorem haltedWindow_active {e : Entry} (h : (s.seq a).activeEntry = some e) :
    haltedWindow s a = (s.seq a).window.tail.map disarmedEntry := by
  unfold haltedWindow
  rw [h]
  rfl

theorem haltedWindow_idle (h : (s.seq a).activeEntry = none) : haltedWindow s a = (s.seq a).window.map disarmedEntry := by
  unfold haltedWindow
  rw [h]
  rfl

theorem disarmedEntry_pending {e : Entry} (h : e.isPending = true) : (disarmedEntry e).state = .pending .notArmed := by
  unfold disarmedEntry
  rw [if_pos h]

/-- Nothing is armed in the window that a halt event leaves (R4, R97). -/
theorem haltedWindow_notArmed (hw : windowOk s) : ∀ e ∈ haltedWindow s a, e.state = .pending .notArmed := by
  have tail_pending : ∀ e ∈ (s.seq a).window.tail, e.isPending = true := (hw a).2
  cases ha : (s.seq a).activeEntry with
  | some x =>
    rw [haltedWindow_active ha]
    intro e he
    obtain ⟨d, hd, rfl⟩ := List.mem_map.1 he
    exact disarmedEntry_pending (tail_pending d hd)
  | none =>
    rw [haltedWindow_idle ha]
    intro e he
    obtain ⟨d, hd, rfl⟩ := List.mem_map.1 he
    refine disarmedEntry_pending ?_
    unfold Seq.activeEntry at ha
    cases hl : (s.seq a).window with
    | nil => rw [hl] at hd; cases hd
    | cons x rest =>
      rw [hl] at hd ha tail_pending
      rcases List.mem_cons.1 hd with rfl | hd
      · by_contra hp
        simp only [hp] at ha
        cases ha
      · exact tail_pending d hd

/-- The record of the aborted segment fills the place of the axis (R98). -/
theorem filled_haltEvent {t : State} {e : Entry} (hh : Halting (haltSelf s a r k common) t)
    (ha : (s.seq a).activeEntry = some e) (hr : Holder.axis a ∈ s.queue.reserved) :
    ∃ more, t.queue.filled = s.queue.filled ++ segAborted s a e r :: more := by
  have hq := (noted_active s a r k ha).2
  rw [fill_reserved _ hr] at hq
  obtain ⟨more, h⟩ := (haltSelf_left s a r k common).filled.trans hh.filled
  rw [hq] at h
  exact ⟨more, by rw [← h]; simp⟩

/-! ### The notice -/

/-- The record of the notice. -/
def haltPlaced (s : State) (a : Axis) (r : HaltReason) : Completion :=
  haltRecord a r none (BitVec.ofInt 32 (s.mg a).pos) (BitVec.ofInt 32 (s.mg a).velocity) s.time

theorem noticeRecord_haltNote (u : State) : noticeRecord u (haltNote s a r) = some (haltPlaced s a r) := rfl

section
variable {t : State} (hs : Bystander a (haltSelf s a r k common) t) (hh : Halting (haltSelf s a r k common) t)
  (ha : (s.seq a).activeEntry = none) (ho : ∀ o ∈ s.owed, isHaltNotice a o = false)
include hs hh ha ho

/-- The notice is owed on or placed (R98). -/
theorem notice_haltEvent : haltNote s a r ∈ t.owed ∨ haltPlaced s a r ∈ t.queue.filled := by
  have h := haltSelf_left s a r k common
  obtain ⟨v, hv⟩ := noted_owes s a r k ha ho
  have hn := notice_owe (fun u => noticeRecord_haltNote (s := s) (a := a) (r := r) u) { s with axes := v }
  rw [← hv] at hn
  rcases hn with hn | hn
  · rw [← h.owed] at hn
    exact (hs.notice _ _ _ _ _ hn).imp_right And.right
  · exact .inr (hh.filled.mem (h.filled.mem hn))

omit hh in
/-- Where nothing can be placed the notice waits at the tail of the owed list (R156). -/
theorem notice_haltEvent_blocked (hp : ¬ (s.active = true ∧ 0 < s.queue.free)) :
    haltNote s a r ∈ t.owed ∧ (haltSelf s a r k common).owed = s.owed ++ [haltNote s a r] := by
  have h := haltSelf_left s a r k common
  obtain ⟨v, hv⟩ := noted_owes s a r k ha ho
  rw [owe_blocked { s with axes := v } (haltNote s a r) hp] at hv
  have he : (haltSelf s a r k common).owed = s.owed ++ [haltNote s a r] := by rw [h.owed, hv]
  refine ⟨?_, he⟩
  have hm : haltNote s a r ∈ (haltSelf s a r k common).owed := by rw [he]; simp
  refine (hs.notice _ _ _ _ _ hm).resolve_right fun k' => hp ?_
  exact (halting_haltSelf s a r k common).placing k'.1

omit hs in
/-- Where nothing is owed before it the notice takes a FREE place at the same event (R155). -/
theorem notice_haltEvent_placed (hp : s.active = true ∧ 0 < s.queue.free) (he : s.owed = []) :
    (∃ more, t.queue.filled = s.queue.filled ++ haltPlaced s a r :: more) ∧ (haltSelf s a r k common).owed = [] := by
  have h := haltSelf_left s a r k common
  obtain ⟨v, hv⟩ := noted_owes s a r k ha ho
  rw [owe_placed { s with axes := v } (haltNote s a r) hp he (noticeRecord_haltNote _)] at hv
  obtain ⟨more, hm⟩ := h.filled.trans hh.filled
  have hq : (noted s a r k).queue.filled = s.queue.filled ++ [haltPlaced s a r] := by rw [hv]; rfl
  have hw : (noted s a r k).owed = [] := by rw [hv]; rfl
  rw [hq] at hm
  exact ⟨⟨more, by rw [← hm]; simp⟩, by rw [h.owed, hw]⟩

end

/-! ### The entries -/

section
variable {t : State} (hh : Halting (haltSelf s a r k false) t) {e : EntryNo} (ho : (s.entry e).state = .opened)
  (hm : inSet a (s.entry e).members = true)
include hh ho hm

/-- The arrival of the axis alone is withdrawn (R46). -/
theorem entry_haltEvent_own (hb : ∀ b, inSet b (s.entry e).arrived = true → b = a) :
    t.entry e = { s.entry e with arrived := 0 } := by
  have hself : (haltSelf s a r k false).entry e = { s.entry e with arrived := 0 } := by
    rw [(haltSelf_left s a r k false).entry]
    by_cases h0 : (s.entry e).arrived = 0
    · rw [if_neg fun h => ((concerns_iff s a e).1 h.2).2.2 h0, ← h0]
    · rw [if_pos ⟨rfl, (concerns_iff s a e).2 ⟨ho, hm, h0⟩⟩]
      refine if_pos ((set_eq_zero_iff _).2 fun b => ?_)
      rw [inSet_without, Bool.and_eq_false_iff]
      by_cases hba : b = a
      · exact .inr (by simp [hba])
      · exact .inl (Bool.eq_false_iff.2 fun h => hba (hb b h))
  rcases hh.entry e with h | ⟨h, -⟩
  · rw [h, hself]
  · exact absurd (by rw [hself]) h

/-- The fire claim of an entry that holds an arrival is withdrawn (R46). -/
theorem fire_haltEvent (h0 : (s.entry e).arrived ≠ 0) : Claim.fire e ∉ t.claims := by
  intro h
  obtain ⟨new, hc, -⟩ := (haltSelf_left s a r k false).claims
  have h := hh.fire e h
  rw [hc, List.mem_append] at h
  rcases h with h | h
  · have := (List.mem_filter.1 h).2
    rw [staysClaim, (concerns_iff s a e).2 ⟨ho, hm, h0⟩] at this
    cases this
  · obtain ⟨b, -, k⟩ := List.mem_map.1 h
    cases k

/-- An entry at which another axis had arrived breaks (R46). -/
theorem entry_haltEvent_broken {b : Axis} (hb : inSet b (s.entry e).arrived = true) (hne : b ≠ a) :
    t.entry e = { s.entry e with state := .broken, arrived := 0 } := by
  have h0 : (s.entry e).arrived ≠ 0 := fun h0 => by
    rw [h0, inSet_zero] at hb
    cases hb
  have hself : (haltSelf s a r k false).entry e = { s.entry e with state := .broken, arrived := 0 } := by
    rw [(haltSelf_left s a r k false).entry, if_pos ⟨rfl, (concerns_iff s a e).2 ⟨ho, hm, h0⟩⟩]
    refine if_neg fun hz => ?_
    have := (set_eq_zero_iff _).1 hz b
    rw [inSet_without, hb] at this
    simp [hne] at this
  rcases hh.entry e with h | ⟨h, -⟩
  · rw [h, hself]
  · exact absurd (by rw [hself]) h

end

/-! ### A waiting BARRIER -/

theorem Halting.idle {s t : State} (h : Halting s t) (hc : s.cte = .idle) : t.cte = .idle := by
  rcases h.cte with e | ⟨e, -⟩
  · exact e.trans hc
  · exact e

theorem cte_haltSelf {w : BarrierRec} (hc : s.cte = .barrier w ∨ s.cte = .idle) (ha : inSet a w.axes = true)
    (hr : r ≠ .drain) : (haltSelf s a r k common).cte = .idle := by
  obtain ⟨-, -, hj, -⟩ := judged_left s a r k common
  rcases hc with hc | hc
  · rw [haltSelf_eq, barrierHalt_waiting (hj.trans hc), if_pos (by rw [ha, bne_iff_ne.2 hr]; rfl)]
    rfl
  · exact (halting_haltSelf s a r k common).idle hc

/-- A halt event that a waiting BARRIER does not name, or of reason DRAIN, leaves it waiting (R147). -/
theorem cte_haltSelf_other {w : BarrierRec} (hc : s.cte = .barrier w) (h : inSet a w.axes = false ∨ r = .drain) :
    (haltSelf s a r k common).cte = s.cte := by
  obtain ⟨-, -, hj, -⟩ := judged_left s a r k common
  rw [haltSelf_eq, barrierHalt_waiting (hj.trans hc), if_neg, hj]
  rcases h with h | h
  · rw [h]
    exact fun k => by cases k
  · rw [h]
    simp

/-- The state of another axis when the BARRIER is judged. -/
theorem sq_judged {b : Axis} (hb : b ≠ a) : ((judged s a r k common).seq b).sq = (s.seq b).sq ∨
    (s.seq b).sq = .wait .cond ∧ ((judged s a r k common).seq b).sq = .wait .place := by
  obtain ⟨⟨-, -, -, hq, -⟩, -⟩ := judged_left s a r k common
  obtain ⟨h1, h2⟩ := hq b hb
  by_cases hf : Follows s a b
  · rw [h1 hf]
    exact .inr ⟨hf.2, rfl⟩
  · rw [h2 hf]
    exact .inl rfl

theorem judged_own : ((judged s a r k common).seq a).sq = .halted ∨ ((judged s a r k common).seq a).sq = .halting := by
  unfold judged
  dsimp only
  rw [seq_setSq, if_pos rfl]
  dsimp only
  split
  · exact .inl rfl
  · exact .inr rfl

theorem motion_judged {b : Axis} (hb : b ≠ a) : ((judged s a r k common).mg b).motion = (s.mg b).motion := by
  have h := mg_haltSelf s a r k common b
  rw [haltSelf_eq, mg_barrierHalt] at h
  rw [h, if_neg hb]

/-- A named axis is not satisfied at the halt event (R146). -/
theorem unsatisfied_judged (w : BarrierRec) (c : Axis) : (judged s a r k common).barrierSatisfied w c = true ↔
    c ≠ a ∧ ((s.seq c).sq = .off ∨ ((s.seq c).sq = .empty ∧
      ((s.mg c).motion = .still ∨ (s.mg c).motion = .hold) ∧ w.counts.get c = 0)) := by
  rw [barrierSatisfied_iff]
  by_cases hc : c = a
  · subst hc
    refine iff_of_false ?_ fun k => k.1 rfl
    rcases judged_own (s := s) (a := c) (r := r) (k := k) (common := common) with h | h <;> rw [h] <;>
      rintro (k | ⟨k, -⟩) <;> cases k
  · rw [motion_judged hc]
    rcases sq_judged (r := r) (k := k) (common := common) hc with h | ⟨h, h'⟩
    · rw [h]
      exact ⟨fun k => ⟨hc, k⟩, fun k => k.2⟩
    · rw [h, h']
      simp

theorem halted_judged (c : Axis) : (judged s a r k common).isHalted c = true ↔
    c = a ∨ (s.seq c).sq = .halting ∨ (s.seq c).sq = .halted := by
  rw [isHalted_iff]
  by_cases hc : c = a
  · subst hc
    exact iff_of_true (judged_own (s := s) (a := c) (r := r) (k := k) (common := common)).symm (.inl rfl)
  · rcases sq_judged (r := r) (k := k) (common := common) hc with h | ⟨h, h'⟩
    · rw [h]
      simp [hc]
    · rw [h, h']
      simp [hc]

/-- The record of the BARRIER that the halt event ends (R147). -/
theorem barrier_haltSelf {w : BarrierRec} (hc : s.cte = .barrier w) (ha : inSet a w.axes = true) (hr : r ≠ .drain)
    (hq : Holder.cte ∈ s.queue.reserved) : ∃ waits stops : BitVec 4,
    (∀ c : Axis, waits.getLsbD c = true ↔ w.axes.getLsbD c = true ∧ (c = a ∨ ¬ ((s.seq c).sq = .off ∨
      ((s.seq c).sq = .empty ∧ ((s.mg c).motion = .still ∨ (s.mg c).motion = .hold) ∧ w.counts.get c = 0)))) ∧
    (∀ c : Axis, stops.getLsbD c = true ↔ w.axes.getLsbD c = true ∧
      (c = a ∨ (s.seq c).sq = .halting ∨ (s.seq c).sq = .halted)) ∧
    { kind := CplKind.cmdDone, ring := 4, seq := w.seq, tag := w.tag, status := 9
      second := BitVec.ofNat 8 a.val, pos := waits.setWidth 32, aux := stops.setWidth 32
      time := s.time, notify := w.notify } ∈ (haltSelf s a r k common).queue.filled := by
  obtain ⟨-, hqueue, hj, ht⟩ := judged_left s a r k common
  obtain ⟨v, q, o, c, m, hn, hres⟩ := noted_eq s a r k
  have hres' : Holder.cte ∈ (judged s a r k common).queue.reserved := by
    rw [hqueue, hn]
    exact hres hq
  have hsat := unsatisfied_judged (s := s) (a := a) (r := r) (k := k) (common := common) w
  have hhal := halted_judged (s := s) (a := a) (r := r) (k := k) (common := common)
  refine ⟨axisSet fun c => inSet c w.axes && !(judged s a r k common).barrierSatisfied w c,
    axisSet fun c => inSet c w.axes && (judged s a r k common).isHalted c, fun c => ?_, fun c => ?_, ?_⟩
  · rw [axisSet_bit, Bool.and_eq_true, Bool.not_eq_true', ← Bool.not_eq_true, hsat, not_and_or, not_not]
    rfl
  · rw [axisSet_bit, Bool.and_eq_true, hhal]
    rfl
  · rw [haltSelf_eq, barrierHalt_waiting (hj.trans hc), if_pos (by rw [ha, bne_iff_ne.2 hr]; rfl)]
    unfold State.endBarrier State.endCommand
    rw [fill_reserved _ hres', ← ht]
    exact List.mem_append_right _ (List.mem_singleton.2 rfl)

/-! ### The GROUP halts -/

/-- An axis that had arrived at an entry of the halted one halts with GROUP (R46). -/
theorem group_haltEvent (n : Nat) (hr : rdvOk s) {e : EntryNo} {b : Axis} (ho : (s.entry e).state = .opened)
    (hm : inSet a (s.entry e).members = true) (hb : inSet b (s.entry e).arrived = true) (hne : b ≠ a) :
    let t := haltEvent (n + 2) a r k false s
    (t.seq b).reason = some .group ∧ ¬ live t b ∧
    ∀ w, s.cte = .barrier w → w.axes.getLsbD b = true → t.cte = .idle := by
  have hmem : b ∈ members (haltBreak s a r k false).2 := by
    rw [mem_members, haltBreak_alone]
    refine (mem_breakFor _ a b).2 ⟨hne, e, ?_⟩
    rw [entry_haltFirst]
    exact ⟨ho, hm, hb⟩
  have hh (u : State) (c : Axis) := halting_haltEvent (n + 1) c .group .soft false u
  have hself := halting_haltSelf s a r k false
  obtain ⟨l1, l2, hl⟩ := List.append_of_mem hmem
  have hnd := members_nodup (haltBreak s a r k false).2
  intro t
  have ht : t = _ := haltEvent_succ s a r k false (n + 1)
  clear_value t
  rw [hl] at hnd ht
  obtain ⟨-, hnd, -⟩ := List.nodup_append.1 hnd
  have hb2 : b ∉ l2 := (List.nodup_cons.1 hnd).1
  rw [List.foldl_append, List.foldl_cons] at ht
  have hu := hself.trans (Halting.foldl l1 (f := fun s b => haltEvent (n + 1) b .group .soft false s) hh (haltSelf s a r k false))
  generalize l1.foldl (fun s b => haltEvent (n + 1) b .group .soft false s) (haltSelf s a r k false) = u at ht hu
  have hru := hu.rdvOk hr
  obtain ⟨x, y, -, hv⟩ := seq_haltEvent u b .group .soft false n (.inr hru)
  have hvu := (haltEvent_own u b .group .soft false n (.inr hru)).2
  have hvr := hvu.unarrived (unarrived_haltSelf u b .group .soft hru)
  have hvl := not_live_haltEvent u b .group .soft false n
  have hvc (w : BarrierRec) (hw : s.cte = .barrier w) (hwb : inSet b w.axes = true) :
      (haltEvent (n + 1) b .group .soft false u).cte = .idle := by
    refine hvu.idle (cte_haltSelf (w := w) ?_ hwb (fun k => by cases k))
    rcases hu.cte with h | ⟨h, -⟩
    · exact .inl (h.trans hw)
    · exact .inr h
  generalize haltEvent (n + 1) b .group .soft false u = v at ht hv hvr hvl hvc
  have hbt := Bystander.foldl (l := l2) (f := fun s b => haltEvent (n + 1) b .group .soft false s) hh
    (fun u c hc hu => bystander_haltEvent (n + 1) c .group .soft false u (fun k : b = c => hb2 (k ▸ hc)) hu) v hvr
  have hht := Halting.foldl l2 (f := fun s b => haltEvent (n + 1) b .group .soft false s) hh v
  rw [← ht] at hbt hht
  have hcond : (v.seq b).sq ≠ .wait .cond := fun k => hvl (.inr (.inl ⟨_, k⟩))
  refine ⟨?_, fun k => hvl (hht.live b k), fun w hw hwb => hht.idle (hvc w hw hwb)⟩
  rw [hbt.seq_eq hcond, hv]

end

/-! ### By the state of the axis -/

/-- The second reason as the statement writes it (R99). -/
theorem map_addSecond (l : List Owed) (a : Axis) (r : HaltReason) {f : Owed → Owed}
    (h : ∀ b first p v w, f (.axisHalted b first none p v w) =
      if a = b then .axisHalted b first (some r) p v w else .axisHalted b first none p v w)
    (h' : ∀ o, (∀ b first p v w, o ≠ .axisHalted b first none p v w) → f o = o) : l.map (addSecond a r) = l.map f := by
  refine List.map_congr_left fun o _ => ?_
  unfold addSecond
  split
  · rw [h]
  next hx => rw [h' o fun b first p v w k => hx b first p v w k]

theorem follows_iff (s : State) (a b : Axis) : Follows s a b ↔ ∃ n, (s.signal n).waiters.head? = some a ∧
    ((s.signal n).waiters.filter (· != a)).head? = some b ∧ 0 < (s.signal n).count ∧ (s.seq b).sq = .wait .cond := by
  unfold Follows
  simp only [nextWaiter_iff]
  exact ⟨fun ⟨⟨n, h1, h2, h3⟩, hq⟩ => ⟨n, h1, h2, h3, hq⟩, fun ⟨n, h1, h2, h3, hq⟩ => ⟨⟨n, h1, h2, h3⟩, hq⟩⟩

/-- A further cause (R104). -/
theorem furtherCause_eq (s : State) (a : Axis) (r : HaltReason) (k : StopKind) : s.furtherCause a r k =
    match k with
    | .hard => ((s.secondReason a r).modMg a MG.hardStop).setSq a .halted
    | .soft => s.secondReason a r := rfl

/-- Settles O57: the halt event by its steps and the GROUP halts behind it, a further cause, and nothing. -/
theorem haltCauseByState : Obligations.HaltCauseByState := by
  intro s a r k common hc t m note placed second served alone next stays
  have hm : stopped s a k = m := stopped_eq
  have hsec (l : List Owed) : l.map (addSecond a r) = l.map second :=
    map_addSecond l a r (fun _ _ _ _ _ => rfl) fun o ho => by
      cases o with
      | axisHalted b first sec p v w =>
        cases sec with
        | none => exact absurd rfl (ho b first p v w)
        | some _ => rfl
      | _ => rfl
  have hnext (b : Axis) : next b ↔ Follows s a b := (follows_iff s a b).symm
  have hserved : (s.active = true ∧ 0 < s.queue.free) ↔ served := placing_iff s
  have hstays : staysClaim s a common = stays := by
    funext c
    cases c <;> rfl
  refine ⟨fun hl => ?_, fun hq => ?_, fun hq => haltCause_stopped r k common hq.symm⟩
  · have ht : t = haltEvent (4 + 1) a r k common s := haltCause_live r k common hl
    obtain ⟨hs, hh⟩ := haltEvent_own s a r k common 4 hc
    obtain ⟨x, y, -, hseq⟩ := seq_haltEvent s a r k common 4 hc
    obtain ⟨v, hmg⟩ := mg_haltEvent s a r k common 4 hc
    have hal (h : alone) : t = haltSelf s a r k common := ht.trans (haltEvent_alone 4 h)
    have hleft := haltSelf_left s a r k common
    have hgroup (hcf : common = false) (e : EntryNo) (b : Axis) (ho : (s.entry e).state = .opened)
        (hmem : inSet a (s.entry e).members = true) (hb : inSet b (s.entry e).arrived = true) (hne : b ≠ a) :
        (t.seq b).reason = some .group ∧ ¬ live t b ∧
          ∀ w, s.cte = .barrier w → w.axes.getLsbD b = true → t.cte = .idle := by
      subst hcf
      rw [ht]
      exact group_haltEvent 3 (hc.resolve_left (by decide)) ho hmem hb hne
    rw [← ht] at hs hh hseq hmg
    clear_value t
    refine ⟨?_, ?_, ?_, watchers_haltEvent hh, fun hw => ?_, fun e he => ⟨?_, filled_haltEvent hh he⟩,
      fun he => ⟨?_, fun ho h => ?_, fun ho => ⟨notice_haltEvent hs hh he ho, fun hp => ?_, fun hp hn => ?_⟩⟩,
      claims_haltEvent hs, signals_haltEvent hh, fun h => ⟨fun n => ?_, ?_, fun b hb => ⟨fun hf => ?_, fun hf => ?_⟩⟩,
      fun hcf e ho hmem => ?_, fun hcf e b ho hmem hb hne => ⟨?_, hgroup hcf e b ho hmem hb hne⟩,
      fun w hw => ⟨fun ha hr => ⟨?_, fun hq => ?_⟩, fun hno h => ?_⟩⟩
    · rw [hseq]
    · rw [hseq, hm]
    · rw [hmg, hm]
    · rw [hseq]
      exact haltedWindow_notArmed hw
    · rw [hseq]
      exact (congrArg (List.map Entry.seq) (haltedWindow_active he)).trans (disarmedEntry_seq _)
    · rw [hseq]
      exact (congrArg (List.map Entry.seq) (haltedWindow_idle he)).trans (disarmedEntry_seq _)
    · rw [hal h, hleft.owed, noted_second s a r k he ho]
      exact hsec _
    · obtain ⟨h1, h2⟩ := notice_haltEvent_blocked hs he ho (mt hserved.1 hp)
      exact ⟨h1, fun h => by rw [hal h]; exact h2⟩
    · obtain ⟨h1, h2⟩ := notice_haltEvent_placed hh he ho (hserved.2 hp) hn
      exact ⟨h1, fun h => by rw [hal h]; exact h2⟩
    · rw [hal h, hleft.signal n]
    · obtain ⟨new, h1, h2, h3⟩ := hleft.claims
      exact ⟨new, by rw [hal h, h1, hstays], h2, fun b => (h3 b).trans (hnext b).symm⟩
    · rw [hal h]
      exact (hleft.seq b hb).2 (mt (hnext b).2 hf)
    · rw [hal h, (hleft.seq b hb).1 ((hnext b).1 hf)]
      exact ⟨rfl, fun c hcand => window_waitsWith hcand _ _⟩
    · subst hcf
      exact ⟨entry_haltEvent_own hh ho hmem, fire_haltEvent hh ho hmem⟩
    · subst hcf
      exact entry_haltEvent_broken hh ho hmem hb hne
    · exact hh.idle (cte_haltSelf (.inl hw) ha hr)
    · obtain ⟨waits, stops, h1, h2, h3⟩ := barrier_haltSelf (k := k) (common := common) hw ha hr hq
      exact ⟨waits, stops, h1, h2, hh.filled.mem h3⟩
    · rw [hal h]
      exact cte_haltSelf_other hw hno
  · have ht : t = s.furtherCause a r k := haltCause_halting r k common hq
    rw [furtherCause_eq] at ht
    have hmg : (s.secondReason a r).mg a = s.mg a := rfl
    have hsq : (s.secondReason a r).seq a = s.seq a := rfl
    have how : (s.secondReason a r).owed = s.owed.map second := hsec s.owed
    cases k with
    | soft =>
      dsimp only at ht
      rw [ht]
      exact ⟨rfl, rfl, fun _ => ⟨rfl, hq⟩, fun k => (by cases k), how, rfl, rfl, rfl⟩
    | hard =>
      dsimp only at ht
      have hs1 : (((s.secondReason a r).modMg a MG.hardStop).setSq a .halted).seq a = { s.seq a with sq := .halted } := by
        rw [seq_setSq, if_pos rfl, seq_modMg, hsq]
      rw [ht]
      refine ⟨by rw [hs1], by rw [hs1], fun k => (by cases k), fun _ => ⟨?_, by rw [hs1]⟩, how, rfl, rfl, rfl⟩
      rw [mg_setSq, mg_modMg, if_pos rfl, hmg]

end Sys2Proof.Proofs

/-! The drain event (R173): its halts, the flush of the windows with their notices, and the end of the CTE. -/

namespace Sys2Proof.Proofs

open Sys2Proof.Machine Sys2Proof.Safety Sys2Proof.Laws

/-! ### The steps -/

section
variable (s : State)

/-- The drain begun, its entries closed (R48, R173). -/
def drainStart : State := { s with dev := .drain, enable := false }.closeEntries

/-- The halts of the drain. -/
def drainHalts : State := forEach allAxes (fun a s => s.haltCause a .drain .soft true) (drainStart s)

/-- The windows flushed. -/
def drainFlushes : State := forEach allAxes State.drainWindow (drainHalts s)

theorem drainEvent_eq : s.drainEvent =
    { (drainFlushes s).drainCte with caps := (drainFlushes s).drainCte.caps.map drainCap } := rfl

theorem entry_drainStart (e : EntryNo) : ((drainStart s).entry e).state = .closed ∧ ((drainStart s).entry e).members = 0 ∧
    ((drainStart s).entry e).arrived = 0 := by
  have h : (drainStart s).entry e = { s.entry e with state := .closed, members := 0, arrived := 0 } := Vector.getElem_map ..
  rw [h]
  exact ⟨rfl, rfl, rfl⟩

end

/-- An item of a list without repetition, between those before and those behind it. -/
theorem forEach_at {α : Type} {l : List α} {x : α} (hx : x ∈ l) (hl : l.Nodup) (f : α → State → State) :
    ∃ l1 l2, x ∉ l1 ∧ x ∉ l2 ∧ ∀ s, forEach l f s = forEach l2 f (f x (forEach l1 f s)) := by
  obtain ⟨l1, l2, rfl⟩ := List.append_of_mem hx
  obtain ⟨-, h2, hd⟩ := List.nodup_append.1 hl
  exact ⟨l1, l2, fun h => hd x h x List.mem_cons_self rfl, (List.nodup_cons.1 h2).1, fun s => List.foldl_append ..⟩

/-! ### The halts -/

theorem softStop_watchers (m : MG) (v : Vector (Option Watcher) 4) (d : Nat) :
    ({ m with watchers := v } : MG).softStop d = { m.softStop d with watchers := v } := by
  by_cases h : m.motion = .still
  · rw [softStop_still m d h, softStop_still { m with watchers := v } d h]
    rfl
  · by_cases h' : m.motion = .stopRamp
    · rw [softStop_ramp m d h', softStop_ramp { m with watchers := v } d h']
      rfl
    · rw [softStop_moving m d h h', softStop_moving { m with watchers := v } d h h']
      have hs : ({ m with watchers := v } : MG).speedSq = m.speedSq := rfl
      rw [hs]
      split <;> rfl

/-- The halts of other axes at a common cause. -/
theorem bystander_halts (a : Axis) (r : HaltReason) (k : StopKind) (l : List Axis) (ha : a ∉ l) : ∀ s : State,
    Bystander a s (forEach l (fun b s => s.haltCause b r k true) s) := by
  induction l with
  | nil => exact fun s => .refl a s
  | cons b l ih =>
    intro s
    rw [List.mem_cons, not_or] at ha
    rw [forEach_cons]
    exact (bystander_haltCause_common s b r k ha.1).trans (halting_haltCause s b r k true)
      (Halting.forEach l (fun b s => halting_haltCause s b r k true) _) (ih ha.2 _)

/-- The window of an axis after the halt of the drain. -/
def drainedWindow (q : Seq) : List Entry :=
  if q.sq ≠ .halting ∧ q.sq ≠ .halted ∧ q.activeEntry ≠ none then q.window.tail else q.window

/-- What the halts of the drain leave of an axis. -/
structure DrainHalted (s : State) (a : Axis) (t : State) : Prop where
  live : live s a → (t.seq a).reason = some .drain ∧ (t.seq a).sq =
    if ((s.mg a).softStop (s.cfg a).stopDecel).motion = .still then .halted else .halting
  rest : ¬ Safety.live s a → t.seq a = s.seq a ∧ ∃ v, t.mg a = { s.mg a with watchers := v }
  window : activeOk s → (t.seq a).window.map Entry.seq = (drainedWindow (s.seq a)).map Entry.seq

/-- The window that a live axis keeps, where its candidate may have claimed a place before. -/
theorem haltedWindow_drained {s v : State} {a : Axis} (hl : LiveSq (s.seq a).sq) (hok : activeOk s)
    (hv : v.seq a = s.seq a ∨ (s.seq a).sq = .wait .cond ∧ v.seq a = waitsWith (s.seq a) .waitStart .place) :
    (haltedWindow v a).map Entry.seq = (drainedWindow (s.seq a)).map Entry.seq := by
  have hq : (s.seq a).sq ≠ .halting ∧ (s.seq a).sq ≠ .halted := by
    rcases hl with h | ⟨c, h⟩ | h <;> rw [h] <;> exact ⟨nofun, nofun⟩
  unfold haltedWindow drainedWindow
  rw [disarmedEntry_seq]
  rcases hv with h | ⟨hc, h⟩
  · rw [h]
    cases ha : (s.seq a).activeEntry with
    | some e => rw [if_pos (by simp), if_pos ⟨hq.1, hq.2, by simp⟩]
    | none => rw [if_neg (by simp), if_neg fun k => k.2.2 rfl]
  · have hn : (s.seq a).activeEntry = none := by
      by_contra k
      have := hok a k
      rw [hc] at this
      cases this
    have hn' : (waitsWith (s.seq a) .waitStart .place).activeEntry = none := by
      unfold Seq.activeEntry
      rw [show (waitsWith (s.seq a) .waitStart .place).window = ((s.seq a).setHead (.pending .waitStart)).window from rfl,
        setHead_window]
      cases (s.seq a).window <;> rfl
    rw [h, hn', hn, if_neg (by simp), if_neg fun k => k.2.2 rfl, window_seq_waitsWith]

theorem drainHalted_turn {s v : State} {a : Axis} (hv : Halting s v) (hb : Bystander a s v) :
    DrainHalted s a (v.haltCause a .drain .soft true) := by
  rcases halt_states (s.seq a).sq with h | h | h
  · have hl : live v a := by
      rcases hb.seq with e | ⟨-, e⟩
      · rw [live_iff, e]; exact h
      · rw [live_iff, e]; exact .inr (.inl ⟨_, rfl⟩)
    obtain ⟨x, y, -, hs⟩ := seq_haltEvent v a .drain .soft true 4 (.inl rfl)
    obtain ⟨w, hw⟩ := hb.mg
    have hst : (stopped v a .soft).motion = ((s.mg a).softStop (s.cfg a).stopDecel).motion := by
      change ((v.mg a).softStop (v.cfg a).stopDecel).motion = _
      rw [hw, hv.cfg, softStop_watchers]
    rw [haltCause_live .drain .soft true hl]
    change DrainHalted s a (haltEvent (4 + 1) a .drain .soft true v)
    generalize haltEvent (4 + 1) a .drain .soft true v = t at hs
    refine ⟨fun _ => ⟨by rw [hs], by rw [hs, ← hst]⟩, fun k => absurd h k, fun hok => ?_⟩
    rw [hs]
    exact haltedWindow_drained h hok hb.seq
  · have hne : (s.seq a).sq ≠ .wait .cond := by rw [h]; exact fun k => by cases k
    have hq := hb.seq_eq hne
    have hl : ¬ live s a := by
      rw [live_iff, h]
      rintro (k | ⟨_, k⟩ | k) <;> cases k
    rw [haltCause_halting .drain .soft true (by rw [hq]; exact h)]
    refine ⟨fun k => absurd k hl, fun _ => ⟨hq, hb.mg⟩, fun _ => ?_⟩
    change (v.seq a).window.map Entry.seq = _
    rw [hq]
    unfold drainedWindow
    rw [if_neg fun k => k.1 h]
  · have hne : (s.seq a).sq ≠ .wait .cond := by rcases h with h | h <;> rw [h] <;> exact fun k => by cases k
    have hq := hb.seq_eq hne
    have hl : ¬ live s a := by
      rw [live_iff]
      rcases h with h | h <;> rw [h] <;> rintro (k | ⟨_, k⟩ | k) <;> cases k
    rw [haltCause_stopped .drain .soft true (by rw [hq]; exact h)]
    refine ⟨fun k => absurd k hl, fun _ => ⟨hq, hb.mg⟩, fun hok => ?_⟩
    rw [hq]
    unfold drainedWindow
    refine congrArg (List.map Entry.seq) (if_neg ?_).symm
    rintro ⟨-, h1, h2⟩
    have := hok a h2
    rcases h with h | h <;> rw [this] at h <;> cases h

/-- The drain's halts, from the state before the drain. -/
theorem drainHalted (s : State) (a : Axis) : DrainHalted s a (drainHalts s) := by
  obtain ⟨l1, l2, h1, h2, hl⟩ := forEach_at (mem_allAxes a) (by decide : allAxes.Nodup)
    (fun a s => State.haltCause s a .drain .soft true)
  have hh (l : List Axis) (u : State) : Halting u (forEach l (fun a s => s.haltCause a .drain .soft true) u) :=
    Halting.forEach l (fun b s => halting_haltCause s b .drain .soft true) u
  have before := bystander_halts a .drain .soft l1 h1 (drainStart s)
  have turn : DrainHalted (drainStart s) a _ := drainHalted_turn (hh l1 (drainStart s)) before
  have hnl := not_live_haltCause (forEach l1 (fun a s => s.haltCause a .drain .soft true) (drainStart s)) a .drain .soft true
  unfold drainHalts
  rw [hl]
  generalize (forEach l1 (fun a s => s.haltCause a .drain .soft true) (drainStart s)).haltCause a .drain .soft true = u at turn hnl ⊢
  have after := bystander_halts a .drain .soft l2 h2 u
  generalize forEach l2 (fun a s => s.haltCause a .drain .soft true) u = t at after
  have hq := after.seq_eq fun k => hnl (.inr (.inl ⟨_, k⟩))
  obtain ⟨v, hv⟩ := after.mg
  refine ⟨fun h => ?_, fun h => ?_, fun h => ?_⟩
  · rw [hq]; exact turn.live h
  · obtain ⟨h1, w, h2⟩ := turn.rest h
    exact ⟨hq.trans h1, v, by rw [hv, h2]; rfl⟩
  · rw [hq]; exact turn.window h

theorem halting_drainHalts (s : State) : Halting (drainStart s) (drainHalts s) :=
  Halting.forEach allAxes (fun b s => halting_haltCause s b .drain .soft true) _

theorem not_live_drainHalts (s : State) (a : Axis) : ¬ live (drainHalts s) a :=
  not_live_forEach (fun a s => halting_haltCause s a .drain .soft true) (fun a s => not_live_haltCause s a .drain .soft true)
    allAxes _ a (mem_allAxes a)

/-! ### What the drain's halts leave of the CTE -/

/-- The CTE and its place are left alone. -/
def CteKept (s t : State) : Prop := t.cte = s.cte ∧ (Holder.cte ∈ s.queue.reserved → Holder.cte ∈ t.queue.reserved)

theorem cteKept_haltSelf (s : State) (a : Axis) : CteKept s (haltSelf s a .drain .soft true) := by
  obtain ⟨-, hq, hc, -⟩ := judged_left s a .drain .soft true
  obtain ⟨v, q, w, c, m, hn, hr⟩ := noted_eq s a .drain .soft
  have hb : haltSelf s a .drain .soft true = judged s a .drain .soft true := by
    rw [haltSelf_eq]
    unfold State.barrierHalt
    split
    · exact if_neg (by simp)
    · rfl
  rw [hb]
  refine ⟨hc, fun h => ?_⟩
  rw [hq, hn]
  exact hr h

theorem cteKept_haltCause (s : State) (a : Axis) : CteKept s (s.haltCause a .drain .soft true) := by
  rcases halt_states (s.seq a).sq with h | h | h
  · rw [haltCause_live .drain .soft true h, show haltDepth = 4 + 1 from rfl, haltEvent_alone 4 (.inl rfl)]
    exact cteKept_haltSelf s a
  · rw [haltCause_halting .drain .soft true h]
    exact ⟨rfl, id⟩
  · rw [haltCause_stopped .drain .soft true h]
    exact ⟨rfl, id⟩

theorem cteKept_drainHalts (s : State) : CteKept s (drainHalts s) := by
  have hl (l : List Axis) : ∀ u : State, CteKept u (forEach l (fun a s => s.haltCause a .drain .soft true) u) := by
    induction l with
    | nil => exact fun u => ⟨rfl, id⟩
    | cons b l ih =>
      intro u
      rw [forEach_cons]
      obtain ⟨h1, h2⟩ := cteKept_haltCause u b
      obtain ⟨k1, k2⟩ := ih (u.haltCause b .drain .soft true)
      exact ⟨k1.trans h1, fun h => k2 (h2 h)⟩
  exact hl allAxes (drainStart s)

/-! ### The flush of a window -/

section
variable (s : State) (a : Axis) (n : Nat)

theorem discard_frame : ∃ v c w ct ri ba, (s.discard a n).1 =
    { s with axes := v, claims := c, signals := w, cte := ct, rings := ri, banks := ba } ∧ Counting s.cte ct := by
  obtain ⟨ct, ba, hd, hc, -⟩ := dropped_eq s a n
  have hw := (withdrawn (dropped s a n) a).rest
  rw [discard_eq]
  generalize (dropped s a n).withdraw a = t at hw
  rw [hd] at hw
  refine ⟨t.axes, t.claims, t.signals, ct, (s.modRing (axisRing a) (ringDiscarded n)).rings, ba, ?_, hc⟩
  have ht : t = { { t with
      axes := (dropped s a n).axes
      claims := (dropped s a n).claims
      signals := (dropped s a n).signals } with
      axes := t.axes
      claims := t.claims
      signals := t.signals } := rfl
  rw [hd, hw] at ht
  exact ht

/-- The notice of the flush. -/
def flushNote : Owed := .drainFlush a ((s.seq a).window.length + s.inFlight a) (s.flushFirst a) s.time

theorem drainWindow_off (h : (s.seq a).sq = .off) : State.drainWindow a s = s := if_pos h

theorem drainWindow_on (h : (s.seq a).sq ≠ .off) :
    State.drainWindow a s = (s.discard a (s.inFlight a)).1.owe (flushNote s a) := if_neg h

end

/-- What the flush of the windows keeps of the part. -/
structure Flushing (s t : State) : Prop where
  dev : t.dev = s.dev
  enable : t.enable = s.enable
  time : t.time = s.time
  rdv : t.rdv = s.rdv
  cte : Counting s.cte t.cte
  reserved : t.queue.reserved = s.queue.reserved
  writing : t.queue.writing = s.queue.writing

theorem Flushing.refl (s : State) : Flushing s s := ⟨rfl, rfl, rfl, rfl, .inl rfl, rfl, rfl⟩

theorem Flushing.trans {s t u : State} (h : Flushing s t) (k : Flushing t u) : Flushing s u :=
  ⟨k.dev.trans h.dev, k.enable.trans h.enable, k.time.trans h.time, k.rdv.trans h.rdv, h.cte.trans k.cte,
    k.reserved.trans h.reserved, k.writing.trans h.writing⟩

theorem flushing_discard (s : State) (a : Axis) (n : Nat) : Flushing s (s.discard a n).1 := by
  obtain ⟨v, c, w, ct, ri, ba, h, hc⟩ := discard_frame s a n
  rw [h]
  exact ⟨rfl, rfl, rfl, rfl, hc, rfl, rfl⟩

theorem flushing_owe (s : State) (o : Owed) : Flushing s (s.owe o) := by
  obtain ⟨w, l, c, m, h⟩ := owe_eq s o
  rw [h]
  exact ⟨rfl, rfl, rfl, rfl, .inl rfl, rfl, rfl⟩

theorem flushing_drainWindow (a : Axis) (s : State) : Flushing s (State.drainWindow a s) := by
  by_cases h : (s.seq a).sq = .off
  · rw [drainWindow_off s a h]
    exact .refl s
  · rw [drainWindow_on s a h]
    exact (flushing_discard s a _).trans (flushing_owe _ _)

theorem flushing_forEach (l : List Axis) : ∀ s : State, Flushing s (forEach l State.drainWindow s) := by
  induction l with
  | nil => exact fun s => .refl s
  | cons b l ih => exact fun s => (flushing_drainWindow b s).trans (ih _)

/-- What the flush of the other windows leaves of an axis. -/
structure Beside (a : Axis) (s t : State) : Prop where
  seq : (s.seq a).sq ≠ .wait .cond → t.seq a = s.seq a
  mg : ∃ v, t.mg a = { s.mg a with watchers := v }
  ring : t.ring (axisRing a) = s.ring (axisRing a)
  notice : ∀ o c, (∀ u, noticeRecord u o = some c) → o ∈ s.owed ∨ c ∈ s.queue.filled → o ∈ t.owed ∨ c ∈ t.queue.filled

theorem Beside.refl (a : Axis) (s : State) : Beside a s s := ⟨fun _ => rfl, ⟨_, rfl⟩, rfl, fun _ _ _ h => h⟩

theorem Beside.trans {a : Axis} {s t u : State} (h : Beside a s t) (k : Beside a t u) : Beside a s u where
  seq hq := by
    have e := h.seq hq
    rw [← e] at hq ⊢
    exact k.seq hq
  mg := by
    obtain ⟨v, hv⟩ := h.mg
    obtain ⟨w, hw⟩ := k.mg
    exact ⟨w, by rw [hw, hv]⟩
  ring := k.ring.trans h.ring
  notice o c hn x := k.notice o c hn (h.notice o c hn x)

section
variable {s : State} {a b : Axis}

theorem mg_discard (n : Nat) (c : Axis) : ∃ v, (s.discard a n).1.mg c = { s.mg c with watchers := v } :=
  ⟨_, by rw [discard_eq, mg_withdraw, mg_dropped]⟩

theorem beside_discard (n : Nat) (h : a ≠ b) : Beside a s (s.discard b n).1 where
  seq hq := (seq_discard_other s b n h).resolve_right fun k => hq k.1
  mg := mg_discard n a
  ring := by
    rw [ring_discard, if_neg]
    intro k
    exact h (Fin.ext (by simpa [axisRing] using congrArg Fin.val k))
  notice o c _ x := by
    obtain ⟨v, c, w, ct, ri, ba, e, -⟩ := discard_frame s b n
    rw [e]
    exact x

theorem owe_frame (o : Owed) : (s.owe o).seq a = s.seq a ∧ (s.owe o).mg a = s.mg a ∧ (s.owe o).rings = s.rings := by
  obtain ⟨w, l, c, m, h⟩ := owe_eq s o
  rw [h]
  exact ⟨rfl, rfl, rfl⟩

theorem beside_owe (o : Owed) : Beside a s (s.owe o) where
  seq _ := (owe_frame o).1
  mg := ⟨_, (owe_frame o).2.1⟩
  ring := by
    unfold State.ring
    rw [(owe_frame (a := a) o).2.2]
  notice _ _ hn x := notice_owe_other hn s o x

theorem beside_drainWindow (h : a ≠ b) : Beside a s (State.drainWindow b s) := by
  by_cases hb : (s.seq b).sq = .off
  · rw [drainWindow_off s b hb]
    exact .refl a s
  · rw [drainWindow_on s b hb]
    exact (beside_discard _ h).trans (beside_owe _)

theorem beside_forEach (l : List Axis) (h : a ∉ l) : ∀ s : State, Beside a s (forEach l State.drainWindow s) := by
  induction l with
  | nil => exact fun s => .refl a s
  | cons b l ih =>
    rw [List.mem_cons, not_or] at h
    exact fun s => (beside_drainWindow h.1).trans (ih h.2 _)

end

/-! ### An axis through the flush of the windows -/

/-- The record of the flush notice. -/
def flushRecord (s : State) (a : Axis) : Completion :=
  { kind := .drainFlush, ring := ringByte a, seq := 0, tag := 0, status := 0, second := 0
    pos := BitVec.ofNat 32 ((s.seq a).window.length + s.inFlight a), aux := (s.flushFirst a).setWidth 32, time := s.time
    notify := true }

/-- What the flush leaves of an axis whose halt has been taken. -/
structure Flushed (s : State) (a : Axis) (t : State) : Prop where
  off : (s.seq a).sq = .off → t.seq a = s.seq a
  on : (s.seq a).sq ≠ .off → t.seq a = { s.seq a with window := [] } ∧
    (flushNote s a ∈ t.owed ∨ flushRecord s a ∈ t.queue.filled)
  mg : ∃ v, t.mg a = { s.mg a with watchers := v }

theorem flushed_forEach (s : State) (a : Axis) (h : (s.seq a).sq ≠ .wait .cond) :
    Flushed s a (forEach allAxes State.drainWindow s) := by
  obtain ⟨l1, l2, h1, h2, hl⟩ := forEach_at (mem_allAxes a) (by decide : allAxes.Nodup) State.drainWindow
  rw [hl]
  have before := beside_forEach l1 h1 s
  have ht := (flushing_forEach l1 s).time
  generalize forEach l1 State.drainWindow s = u at before ht
  have hq := before.seq h
  obtain ⟨v, hv⟩ := before.mg
  by_cases ho : (u.seq a).sq = .off
  · rw [drainWindow_off u a ho]
    have after := beside_forEach l2 h2 u
    generalize forEach l2 State.drainWindow u = t at after
    obtain ⟨w, hw⟩ := after.mg
    have hs := (after.seq (by rw [ho]; exact nofun)).trans hq
    exact ⟨fun _ => hs, fun k => absurd (hq ▸ ho) k, w, by rw [hw, hv]⟩
  · have hnote : flushNote u a = flushNote s a ∧ flushRecord u a = flushRecord s a := by
      unfold flushNote flushRecord State.inFlight State.flushFirst
      rw [hq, before.ring, ht]
      exact ⟨rfl, rfl⟩
    have hn := notice_owe (o := flushNote u a) (c := flushRecord u a) (fun _ => rfl) (u.discard a (u.inFlight a)).1
    obtain ⟨fs, fm, -⟩ := owe_frame (s := (u.discard a (u.inFlight a)).1) (a := a) (flushNote u a)
    rw [seq_discard_self, hq] at fs
    obtain ⟨x, hx⟩ := mg_discard (s := u) (a := a) (u.inFlight a) a
    rw [hx, hv] at fm
    rw [drainWindow_on u a ho]
    rw [hnote.1, hnote.2] at hn
    rw [hnote.1] at fs fm ⊢
    generalize (u.discard a (u.inFlight a)).1.owe (flushNote s a) = y at hn fs fm
    have after := beside_forEach l2 h2 y
    generalize forEach l2 State.drainWindow y = t at after
    obtain ⟨w, hw⟩ := after.mg
    have hs := (after.seq (by rw [fs]; exact h)).trans fs
    refine ⟨fun k => absurd (hq ▸ k) ho, fun _ => ⟨hs, ?_⟩, w, by rw [hw, fm]⟩
    exact after.notice _ _ (fun _ => rfl) hn

/-! ### The places -/

/-- Notices stay owed only while no place is FREE. -/
def PlacesFull (s : State) : Prop := s.owed ≠ [] → 8 ≤ usedPlaces s

theorem owed_placeFirstOwed (s : State) : s.placeFirstOwed.owed = s.owed.tail := by
  unfold State.placeFirstOwed
  split
  next h => rw [h]; rfl
  next o rest h =>
    dsimp only
    split
    next c _ =>
      obtain ⟨l, hl⟩ := placeRecord_eq { s with owed := rest } c
      rw [hl]
      obtain ⟨v, m, e⟩ := sourcePlaced_eq { s with owed := rest, queue := { s.queue with filled := l } } o
      rw [e, h]
      rfl
    · rw [h]
      rfl

theorem serveOwedUpTo_full (n : Nat) : ∀ s : State, s.active = true → s.owed.length ≤ n → PlacesFull (serveOwedUpTo n s) := by
  induction n with
  | zero => exact fun s _ h k => absurd (List.length_eq_zero_iff.1 (Nat.le_zero.1 h)) k
  | succ n ih =>
    intro s ha h
    rw [serveOwedUpTo]
    by_cases hg : (s.active && decide (0 < s.queue.free) && !s.owed.isEmpty) = true
    · rw [if_pos hg]
      refine ih _ ?_ ?_
      · obtain ⟨w, l, c, m, e⟩ := placeFirstOwed_eq s
        rw [e]
        exact ha
      · rw [owed_placeFirstOwed, List.length_tail]
        omega
    · rw [if_neg hg]
      intro hne
      rw [ha, Bool.true_and, Bool.and_eq_true, decide_eq_true_eq, not_and, free_eq] at hg
      by_contra hu
      exact hg (by omega) (by simpa using hne)

theorem placesFull_owe (s : State) (o : Owed) (h : s.dev = .drain) : PlacesFull (s.owe o) :=
  serveOwedUpTo_full _ { s with owed := s.owed ++ [o] } ((active_iff _).2 (.inr h)) le_rfl

theorem placesFull_drainWindow (a : Axis) (s : State) (hd : s.dev = .drain) (h : (s.seq a).sq ≠ .off ∨ PlacesFull s) :
    PlacesFull (State.drainWindow a s) := by
  by_cases ho : (s.seq a).sq = .off
  · rw [drainWindow_off s a ho]
    exact h.resolve_left fun k => k ho
  · rw [drainWindow_on s a ho]
    exact placesFull_owe _ _ ((flushing_discard s a _).dev.trans hd)

theorem placesFull_forEach (l : List Axis) : ∀ s : State, s.dev = .drain → PlacesFull s →
    PlacesFull (forEach l State.drainWindow s) := by
  induction l with
  | nil => exact fun _ _ h => h
  | cons b l ih =>
    exact fun s hd h => ih _ ((flushing_drainWindow b s).dev.trans hd) (placesFull_drainWindow b s hd (.inr h))

/-- Where an axis is enabled, its flush has served the owed list. -/
theorem placesFull_flushes (s : State) (a : Axis) (hd : s.dev = .drain) (h : (s.seq a).sq ≠ .off)
    (hc : (s.seq a).sq ≠ .wait .cond) : PlacesFull (forEach allAxes State.drainWindow s) := by
  obtain ⟨l1, l2, h1, -, hl⟩ := forEach_at (mem_allAxes a) (by decide : allAxes.Nodup) State.drainWindow
  rw [hl]
  have hq := (beside_forEach l1 h1 s).seq hc
  have hd1 := (flushing_forEach l1 s).dev.trans hd
  generalize forEach l1 State.drainWindow s = u at hq hd1
  exact placesFull_forEach l2 _ ((flushing_drainWindow a u).dev.trans hd1)
    (placesFull_drainWindow a u hd1 (.inl (hq ▸ h)))

/-! ### The end of the CTE -/

/-- The end of the CTE leaves the axes and the owed list, and keeps the places. -/
structure CteEnded (s t : State) : Prop where
  rest : { t with queue := s.queue, cte := s.cte } = s
  filled : s.queue.filled <+: t.queue.filled
  used : usedPlaces t = usedPlaces s

theorem usedPlaces_fill (s : State) (h : Holder) (c : Completion) : usedPlaces (s.fill h c) = usedPlaces s := by
  unfold State.fill
  split
  next hm =>
    have := List.length_erase_of_mem hm
    have := List.length_pos_of_mem hm
    simp only [usedPlaces, List.length_append, List.length_cons, List.length_nil]
    omega
  · rfl

theorem cteEnded_drainCte (s : State) : CteEnded s s.drainCte := by
  unfold State.drainCte
  split
  · exact ⟨rfl, List.prefix_refl _, rfl⟩
  next b _ =>
    unfold State.endBarrier State.endCommand
    have hu := usedPlaces_fill s .cte (cmdDone s b.seq b.tag b.notify (s.barrierAnswer b .draining 0xFF))
    have hf := (halting_fill s .cte (cmdDone s b.seq b.tag b.notify (s.barrierAnswer b .draining 0xFF))).filled
    obtain ⟨q, hq⟩ := fill_eq s .cte (cmdDone s b.seq b.tag b.notify (s.barrierAnswer b .draining 0xFF))
    rw [hq] at hu hf ⊢
    exact ⟨rfl, hf, hu⟩
  · exact ⟨rfl, List.prefix_refl _, rfl⟩
  · exact ⟨rfl, List.prefix_refl _, rfl⟩

theorem drainCte_barrier {s : State} {b : BarrierRec} (h : s.cte = .barrier b) :
    s.drainCte = s.endBarrier b .draining 0xFF := by
  unfold State.drainCte
  rw [h]

/-- A waiting BARRIER ends with DRAINING where no axis can take a segment (R147). -/
theorem drainCte_record {s : State} {b : BarrierRec} (h : s.cte = .barrier b) (hr : Holder.cte ∈ s.queue.reserved)
    (hl : ∀ a, ¬ live s a) : ∃ m : BitVec 4, (∀ a : Axis, m.getLsbD a = (b.axes.getLsbD a && (s.seq a).sq != .off)) ∧
    { kind := CplKind.cmdDone, ring := 4, seq := b.seq, tag := b.tag, status := 10, second := 0xFF
      pos := m.setWidth 32, aux := m.setWidth 32, time := s.time, notify := b.notify } ∈ s.drainCte.queue.filled := by
  have hsat (a : Axis) : (!s.barrierSatisfied b a) = ((s.seq a).sq != .off) := by
    rw [Bool.eq_iff_iff, Bool.not_eq_true', ← Bool.not_eq_true, barrierSatisfied_iff, bne_iff_ne, not_or]
    exact ⟨fun k => k.1, fun k => ⟨k, fun k' => hl a (.inl k'.1)⟩⟩
  have hhal (a : Axis) : s.isHalted a = ((s.seq a).sq != .off) := by
    rw [Bool.eq_iff_iff, isHalted_iff, bne_iff_ne]
    rcases halt_states (s.seq a).sq with k | k | k | k
    · exact absurd k (hl a)
    · rw [k]; simp
    · rw [k]; simp
    · rw [k]; simp
  refine ⟨axisSet fun a => inSet a b.axes && (s.seq a).sq != .off, fun a => axisSet_bit _ a, ?_⟩
  have ha : s.barrierAnswer b .draining 0xFF =
      { status := .draining, byte := 0xFF
        first := (axisSet fun a => inSet a b.axes && (s.seq a).sq != .off).setWidth 32
        second := (axisSet fun a => inSet a b.axes && (s.seq a).sq != .off).setWidth 32 } := by
    unfold State.barrierAnswer
    simp only [hsat, hhal]
  rw [drainCte_barrier h]
  unfold State.endBarrier State.endCommand
  rw [fill_reserved _ hr, ha]
  exact List.mem_append_right _ (List.mem_singleton.2 rfl)

/-! ### The drain event -/

section
variable (s : State)

/-- The first sequence number of a flush range, by the sequence numbers of the window (R23). -/
theorem flushFirst_eq (a : Axis) : s.flushFirst a = ((s.seq a).window.map Entry.seq).headD (s.ring (axisRing a)).seqNo := by
  unfold State.flushFirst
  cases (s.seq a).window <;> rfl

theorem flushing_flushes : Flushing (drainHalts s) (drainFlushes s) := flushing_forEach allAxes _

theorem flushed_flushes (a : Axis) : Flushed (drainHalts s) a (drainFlushes s) :=
  flushed_forEach _ a fun k => not_live_drainHalts s a (.inr (.inl ⟨_, k⟩))

theorem off_drainHalts (a : Axis) : ((drainHalts s).seq a).sq = .off ↔ (s.seq a).sq = .off := by
  have h := drainHalted s a
  by_cases hl : live s a
  · obtain ⟨-, hq⟩ := h.live hl
    rw [hq]
    refine iff_of_false ?_ fun k => ?_
    · split <;> exact nofun
    · rw [live_iff, k] at hl
      rcases hl with k | ⟨_, k⟩ | k <;> cases k
  · rw [(h.rest hl).1]

theorem not_live_off {a : Axis} (h : (s.seq a).sq = .off) : ¬ live s a := by
  rw [live_iff, h]
  rintro (k | ⟨_, k⟩ | k) <;> cases k

theorem not_live_halt {a : Axis} (h : (s.seq a).sq = .halting ∨ (s.seq a).sq = .halted) : ¬ live s a := by
  rw [live_iff]
  rcases h with h | h <;> rw [h] <;> rintro (k | ⟨_, k⟩ | k) <;> cases k

/-- The flush notice of an axis, over what its halt has left in the window and the record in flight (R151). -/
theorem flush_drainHalts (a : Axis) (hok : activeOk s) :
    let n := (drainedWindow (s.seq a)).length + s.inFlight a
    let first := ((drainedWindow (s.seq a)).map Entry.seq).headD (s.ring (axisRing a)).seqNo
    flushNote (drainHalts s) a = .drainFlush a n first s.time ∧
    flushRecord (drainHalts s) a =
      { kind := .drainFlush, ring := ringByte a, seq := 0, tag := 0, status := 0, second := 0
        pos := BitVec.ofNat 32 n, aux := first.setWidth 32, time := s.time, notify := true } := by
  have hw := (drainHalted s a).window hok
  have hlen := congrArg List.length hw
  rw [List.length_map, List.length_map] at hlen
  have hr : (drainHalts s).ring (axisRing a) = s.ring (axisRing a) := (halting_drainHalts s).ring _
  have ht : (drainHalts s).time = s.time := (halting_drainHalts s).time
  unfold flushNote flushRecord State.inFlight
  rw [flushFirst_eq, hw, hlen, hr, ht]
  exact ⟨rfl, rfl⟩

theorem cte_drainFlushes : Counting s.cte (drainFlushes s).cte := by
  have h := (flushing_flushes s).cte
  rw [(cteKept_drainHalts s).1] at h
  exact h

/-- The CTE at the end of the drain event, where no BARRIER waits. -/
theorem drainCte_cte {u : State} (h : ∀ b, u.cte ≠ .barrier b) : u.drainCte.cte = if u.cte = .claim then .idle else u.cte := by
  unfold State.drainCte
  cases hc : u.cte with
  | barrier b => exact absurd hc (h b)
  | idle => exact hc
  | claim => rfl
  | fetch => exact hc

/-- The drain event, the end of the CTE and the capture units taken back. -/
theorem drainEvent_fields : s.drainEvent.axes = (drainFlushes s).axes ∧ s.drainEvent.owed = (drainFlushes s).owed ∧
    s.drainEvent.dev = (drainFlushes s).dev ∧ s.drainEvent.enable = (drainFlushes s).enable ∧
    s.drainEvent.rdv = (drainFlushes s).rdv ∧ usedPlaces s.drainEvent = usedPlaces (drainFlushes s) ∧
    (drainFlushes s).queue.filled <+: s.drainEvent.queue.filled ∧
    s.drainEvent.cte = (drainFlushes s).drainCte.cte ∧ s.drainEvent.queue = (drainFlushes s).drainCte.queue := by
  have h := cteEnded_drainCte (drainFlushes s)
  rw [drainEvent_eq]
  generalize drainFlushes s = u at h
  generalize u.drainCte = t at h
  obtain ⟨hr, hf, hu⟩ := h
  refine ⟨?_, ?_, ?_, ?_, ?_, hu, hf, rfl, rfl⟩ <;> rw [← hr]

/-- An axis at the end of the drain event. -/
theorem axis_drainEvent (a : Axis) : s.drainEvent.seq a = (drainFlushes s).seq a ∧ s.drainEvent.mg a = (drainFlushes s).mg a :=
  axis_congr (drainEvent_fields s).1 a

end

/-- Settles O11: the halts, the flush of the windows and the end of the CTE, one after the other. -/
theorem drainEmptiesTheWindows : Obligations.DrainEmptiesTheWindows := by
  intro s hoff
  obtain ⟨-, howed, hdev, hen, hrdv, hused, hfill, hcte, hqueue⟩ := drainEvent_fields s
  have hax := axis_drainEvent s
  have hH := halting_drainHalts s
  have hF := flushing_flushes s
  have hdF : (drainHalts s).dev = .drain := hH.dev
  have hnl := not_live_drainHalts s
  have hD := drainHalted s
  have hW := flushed_flushes s
  have hofH := off_drainHalts s
  have hseq (a : Axis) : s.drainEvent.seq a = { (drainHalts s).seq a with window := (s.drainEvent.seq a).window } := by
    rw [(hax a).1]
    by_cases h : ((drainHalts s).seq a).sq = .off
    · rw [(hW a).off h]
    · rw [((hW a).on h).1]
  have hmg (a : Axis) : ∃ v, s.drainEvent.mg a = { (drainHalts s).mg a with watchers := v } := by
    rw [(hax a).2]
    exact (hW a).mg
  refine ⟨hdev.trans (hF.dev.trans hdF), hen.trans (hF.enable.trans hH.enable), fun e => ?_, fun a => ⟨?_, fun k => ?_, fun k => ?_⟩,
    fun u c k => ?_, ?_⟩
  · have he : s.drainEvent.entry e = (drainStart s).entry e := by
      have hu : s.drainEvent.entry e = (drainHalts s).entry e := by
        unfold State.entry
        rw [hrdv, hF.rdv]
      rw [hu]
      exact (hH.entry e).resolve_right fun k => k.1 (entry_drainStart s e).2.2
    rw [he]
    exact entry_drainStart s e
  · rw [(hax a).1]
    by_cases h : ((drainHalts s).seq a).sq = .off
    · have hs := (hofH a).1 h
      rw [(hW a).off h, ((hD a).rest (not_live_off s hs)).1]
      exact hoff a hs
    · rw [((hW a).on h).1]
  · rw [live_iff, hseq a] at k
    exact hnl a k
  · rw [hseq a]
    exact (hofH a).2 k
  · have hc : s.drainEvent.cap u = drainCap ((drainFlushes s).drainCte.cap u) := Vector.getElem_map ..
    rw [hc] at k
    cases hx : (drainFlushes s).drainCte.cap u <;> rw [hx] at k <;> cases k
  · intro t
    refine ⟨fun a hl => ?_, fun a h => ?_, fun hok a hna => ?_, fun ⟨a, hna⟩ hne => ?_, fun hc => ?_, fun hc => ?_, fun b hb => ?_⟩
    · obtain ⟨h1, h2⟩ := (hD a).live hl
      rw [show t.seq a = _ from hseq a]
      exact ⟨h1, h2⟩
    · obtain ⟨h1, v, h2⟩ := (hD a).rest (not_live_halt s h)
      obtain ⟨w, hw⟩ := hmg a
      rw [show t.seq a = _ from hseq a, show t.mg a = _ from hw, h1, h2]
      exact ⟨rfl, rfl, rfl⟩
    · obtain ⟨h1, h2⟩ := flush_drainHalts s a hok
      have hn := ((hW a).on (mt (hofH a).1 hna)).2
      rw [h1, h2] at hn
      have hfirst (l : List Entry) (d : BitVec 16) : (l.map Entry.seq).headD d = (match l with | e :: _ => e.seq | [] => d) := by
        cases l <;> rfl
      rw [hfirst] at hn
      rw [show t.owed = _ from howed]
      exact hn.imp_right hfill.mem
    · have hp := placesFull_flushes (drainHalts s) a hdF (mt (hofH a).1 hna) fun k => hnl a (.inr (.inl ⟨_, k⟩))
      rw [show t.owed = _ from howed] at hne
      exact (hp hne).trans hused.ge
    · have hcF : (drainFlushes s).cte = s.cte := (cte_drainFlushes s).resolve_right fun ⟨b, _, _, hb, _⟩ => by
        rcases hc with hc | hc <;> rw [hc] at hb <;> cases hb
      refine hcte.trans ((drainCte_cte ?_).trans ?_) <;> rw [hcF] <;> rcases hc with hc | hc <;> rw [hc]
      · exact nofun
      · exact nofun
      · rfl
      · rfl
    · have hcF : (drainFlushes s).cte = s.cte := (cte_drainFlushes s).resolve_right fun ⟨b, _, _, hb, _⟩ => by
        rw [hc] at hb; cases hb
      refine hcte.trans ((drainCte_cte ?_).trans ?_) <;> rw [hcF, hc]
      · exact nofun
      · rfl
    · obtain ⟨x, y, hx⟩ : ∃ x y, (drainFlushes s).cte = .barrier { b with counts := x, skip := y } := by
        rcases cte_drainFlushes s with h | ⟨b', x, y, hb', h⟩
        · exact ⟨b.counts, b.skip, h.trans hb⟩
        · rw [hb] at hb'
          cases hb'
          exact ⟨x, y, h⟩
      refine ⟨hcte.trans (congrArg State.cte (drainCte_barrier hx)), fun hq => ?_⟩
      have hl (a : Axis) : ¬ live (drainFlushes s) a := fun k => by
        rw [live_iff, ← (hax a).1, hseq a] at k
        exact hnl a k
      have hres : Holder.cte ∈ (drainFlushes s).queue.reserved := by
        rw [hF.reserved]
        exact (cteKept_drainHalts s).2 hq
      obtain ⟨m, hm, hrec⟩ := drainCte_record hx hres hl
      refine ⟨m, fun a => ?_, ?_⟩
      · rw [hm a]
        refine congrArg (b.axes.getLsbD a && ·) ?_
        rw [Bool.eq_iff_iff, bne_iff_ne, bne_iff_ne, ← (hax a).1, hseq a]
        exact not_congr (hofH a)
      · have ht : (drainFlushes s).time = s.time := hF.time.trans hH.time
        rw [ht, ← hqueue] at hrec
        exact hrec

end Sys2Proof.Proofs

/-! How rendezvous entries fire and fail (R24, R45 to R47). -/

namespace Sys2Proof.Proofs

open Sys2Proof.Machine Sys2Proof.Safety Sys2Proof.Laws

/-! ### The record of the fires of an entry -/

/-- No entry has fired between the states. -/
structure SameFires (s t : State) : Prop where
  same : ∀ e, (t.entry e).fireCount = (s.entry e).fireCount ∧ (t.entry e).lastFire = (s.entry e).lastFire

theorem SameFires.trans {s t u : State} (h : SameFires s t) (k : SameFires t u) : SameFires s u :=
  ⟨fun e => ⟨(k.same e).1.trans (h.same e).1, (k.same e).2.trans (h.same e).2⟩⟩

theorem SameFires.of_rdv {s t : State} (h : t.rdv = s.rdv) : SameFires s t := by
  refine ⟨fun e => ?_⟩
  unfold State.entry
  rw [h]
  exact ⟨rfl, rfl⟩

theorem SameFires.refl (s : State) : SameFires s s := .of_rdv rfl

theorem Halting.sameFires {s t : State} (h : Halting s t) : SameFires s t := by
  refine ⟨fun e => ?_⟩
  rcases h.entry e with k | ⟨-, x, -, k⟩ <;> rw [k] <;> exact ⟨rfl, rfl⟩

section
variable (s : State) (a : Axis)

theorem sameFires_forEach {α : Type} {f : α → State → State} (h : ∀ x s, SameFires s (f x s)) (l : List α) :
    ∀ s : State, SameFires s (forEach l f s) := by
  induction l with
  | nil => exact .refl
  | cons x l ih => exact fun s => (h x s).trans (ih _)

theorem sameFires_foldl {α : Type} {f : State → α → State} (h : ∀ s x, SameFires s (f s x)) (l : List α) :
    ∀ s : State, SameFires s (l.foldl f s) := by
  induction l with
  | nil => exact .refl
  | cons x l ih => exact fun s => (h s x).trans (ih _)

theorem sameFires_arrive (e : EntryNo) : SameFires s (s.arrive a e) := by
  have h1 : SameFires s ((s.modEntry e fun r => { r with arrived := r.arrived ||| axisBit a }).waitCond a) := by
    refine SameFires.trans (t := s.modEntry e fun r => { r with arrived := r.arrived ||| axisBit a }) ⟨fun d => ?_⟩ (.of_rdv rfl)
    rw [entry_modEntry]
    split
    next h => subst h; exact ⟨rfl, rfl⟩
    next => exact ⟨rfl, rfl⟩
  unfold State.arrive
  generalize (s.modEntry e fun r => { r with arrived := r.arrived ||| axisBit a }).waitCond a = t at h1 ⊢
  dsimp only
  split
  · refine h1.trans (.trans (sameFires_forEach (fun b u => ?_) _ t) (.of_rdv rfl))
    obtain ⟨v, h⟩ := waitFire_eq u b
    exact .of_rdv (by rw [h])
  · exact h1

theorem rdv_judgeHead (n : SignalNo) : (s.judgeHead n).rdv = s.rdv := by
  obtain ⟨v, c, h⟩ := judgeHead_eq s n
  rw [h]

theorem rdv_joinSignal (n : SignalNo) : (s.joinSignal a n).rdv = s.rdv := by
  unfold State.joinSignal
  dsimp only
  split
  · exact rdv_judgeHead _ n
  · rfl

theorem sameFires_judgeStart (st : Start) : SameFires s (s.judgeStart a st) := by
  cases st with
  | afterPrevious => exact .of_rdv rfl
  | waitInput l edge =>
    unfold State.judgeStart
    dsimp only
    split <;> exact .of_rdv rfl
  | waitSignal n => exact .of_rdv (rdv_joinSignal s a n)
  | waitPosition w up threshold =>
    unfold State.judgeStart
    dsimp only
    split <;> exact .of_rdv rfl
  | waitRendezvous e => exact sameFires_arrive s a e

theorem sameFires_arm : SameFires s (s.arm a) := by
  unfold State.arm
  split
  · exact .refl s
  · split
    · exact .of_rdv rfl
    · exact sameFires_judgeStart s a _
    · exact .refl s

theorem sameFires_haltCause (r : HaltReason) (k : StopKind) (common : Bool) : SameFires s (s.haltCause a r k common) :=
  (halting_haltCause s a r k common).sameFires

theorem sameFires_afterCompletion (w : Work) : SameFires s (s.afterCompletion a w) := by
  unfold State.afterCompletion
  split
  · exact SameFires.trans (t := s.setSq a .empty) (.of_rdv rfl) (sameFires_haltCause ..)
  · exact .of_rdv rfl
  · exact sameFires_arm s a

theorem sameFires_completionEvent (aux : Int) : SameFires s (s.completionEvent a aux) := by
  cases he : (s.seq a).activeEntry with
  | none =>
    unfold State.completionEvent
    rw [he]
    exact .refl s
  | some e =>
    cases hb : e.seg.body with
    | none =>
      unfold State.completionEvent
      simp only [he, hb]
      exact .refl s
    | some b =>
      unfold State.completionEvent
      simp only [he, hb]
      refine SameFires.trans ?_ (sameFires_afterCompletion _ a b.work)
      have h1 : ((s.applyOut b.outEnd).fill (.axis a) (segDone (s.applyOut b.outEnd) a e aux)).rdv = s.rdv := by
        obtain ⟨q, hq⟩ := fill_eq (s.applyOut b.outEnd) (.axis a) (segDone (s.applyOut b.outEnd) a e aux)
        rw [hq]
        rfl
      generalize (s.applyOut b.outEnd).fill (.axis a) (segDone (s.applyOut b.outEnd) a e aux) = t at h1
      have left (u : State) (hu : u.rdv = s.rdv) : SameFires s ((u.removeHead a).modMg a MG.clearGoal) := by
        refine .of_rdv ?_
        rw [rdv_modMg, State.removeHead, rdv_modSeq, hu]
      cases b.postSignal with
      | none => exact left t h1
      | some n => exact left (t.postSignal n 1) ((postSignal_outside t n 1).1.trans h1)

theorem sameFires_complete (m : MotionState → MotionState) : SameFires s (s.complete a m) := by
  unfold State.complete
  exact SameFires.trans (t := s.modMg a fun x => { x with motion := m x.motion }) (.of_rdv rfl) (sameFires_completionEvent ..)

theorem rdv_beginPhase (h : HomeState) (p : HomePhase) (positive : Bool) (b : SegBody) :
    (s.beginPhase a h p positive b).rdv = s.rdv := rfl

theorem sameFires_homeStandstill (h : HomeState) (b : SegBody) : SameFires s (s.homeStandstill a h b) := by
  have fails : SameFires s (s.homeFail a .soft) := sameFires_haltCause ..
  have begins (p : HomePhase) (positive : Bool) : SameFires s (s.beginPhase a h p positive b) :=
    .of_rdv (rdv_beginPhase s a h p positive b)
  unfold State.homeStandstill
  dsimp only
  split
  · split
    · split
      · exact fails
      · exact begins _ _
    · split
      · exact fails
      · exact begins _ _
  · split
    · exact fails
    · exact begins _ _
  · split
    · exact fails
    · exact begins _ _
  · exact .refl s
  · exact .refl s

theorem rdv_serveWatcher (w b : Axis) : (State.serveWatcher w b s).rdv = s.rdv := by
  unfold State.serveWatcher
  split
  · split
    · obtain ⟨v, c, h⟩ := meet_eq (s.setWatcher w b none) b
      rw [h]
      rfl
    · rfl
  · rfl

theorem rdv_setPosition (p : Int) : (s.setPosition a p).rdv = s.rdv := by
  have h (u : State) : (u.serveWatchers a).rdv = u.rdv := by
    unfold State.serveWatchers
    exact forEach_keeps (P := fun t => t.rdv = u.rdv) (fun b t ht => (rdv_serveWatcher t a b).trans ht) allAxes u rfl
  unfold State.setPosition State.rebase State.recomputePosBlocks
  simp only [rdv_modSeq, rdv_modFbm, h, rdv_modMg]

theorem sameFires_settleEnd (h : HomeState) (b : SegBody) : SameFires s (s.settleEnd a h b) := by
  unfold State.settleEnd
  split
  · exact .refl s
  · dsimp only
    split
    · exact SameFires.trans (.of_rdv (rdv_setPosition s a _)) (sameFires_completionEvent ..)
    · exact sameFires_haltCause ..

theorem sameFires_takeActive (b : SegBody) (ev : MgEvent) : SameFires s (s.takeActive a b ev) := by
  unfold State.takeActive
  split
  · exact .refl s
  · exact sameFires_complete s a _
  · exact sameFires_complete s a _
  · exact .of_rdv rfl
  · split
    · exact sameFires_homeStandstill s a _ b
    · exact .refl s
  · split
    · exact sameFires_settleEnd s a _ b
    · exact .refl s
  · exact sameFires_complete s a _
  · exact sameFires_complete s a _
  · exact .refl s

theorem sameFires_takeMgEvent (ev : MgEvent) : SameFires s (s.takeMgEvent a ev) := by
  unfold State.takeMgEvent
  split
  · split
    · exact .of_rdv rfl
    · exact .refl s
  · split
    · exact sameFires_takeActive s a _ ev
    · exact .refl s
  · exact .refl s

/-- An MG that reports nothing changes no entry. -/
theorem rdv_takeMgEvent_none : (s.takeMgEvent a .none).rdv = s.rdv := by
  unfold State.takeMgEvent
  split
  · split <;> rfl
  · split
    · rw [takeActive_none]
    · rfl
  · rfl

theorem entry_atOneStep (l : List (Axis × (State → State))) (e : EntryNo) :
    (s.atOneStep l).entry e = (l.foldl (fun u x => x.2 u) s).entry e := by
  rw [← takeAll_state]
  rfl

end

/-! ### The start events of a fire -/

section
variable (s : State) (a : Axis)

theorem startEvent_frame : ∃ v c w k o, (s.startEvent a).1 =
    { s with axes := v, claims := c, signals := w, banks := k, outs := o } := by
  cases he : (s.seq a).candidate with
  | none =>
    unfold State.startEvent
    rw [he]
    exact ⟨s.axes, s.claims, s.signals, s.banks, s.outs, rfl⟩
  | some e =>
    cases hb : e.seg.body with
    | none =>
      unfold State.startEvent
      simp only [he, hb]
      exact ⟨s.axes, s.claims, s.signals, s.banks, s.outs, rfl⟩
    | some b =>
      rw [startEvent_eq he hb]
      obtain ⟨v, k, o, h, -⟩ := activated_frame (s := s) (a := a) e b
      obtain ⟨v', c, w, h'⟩ := takeCount_frame (activated s a e b) a b.start
      dsimp only
      rw [h', h]
      exact ⟨v', c, w, k, o, rfl⟩

theorem startAll_axes (l : List Axis) : ∀ s : State, (startAll l s).2.map (·.1) = l := by
  induction l with
  | nil => exact fun _ => rfl
  | cons x l ih => exact fun s => congrArg (x :: ·) (ih (s.startEvent x).1)

theorem startAll_keeps (l : List Axis) : ∀ s : State, (startAll l s).1.rdv = s.rdv ∧ (startAll l s).1.time = s.time := by
  induction l with
  | nil => exact fun _ => ⟨rfl, rfl⟩
  | cons x l ih =>
    intro s
    obtain ⟨h1, h2⟩ := ih (s.startEvent x).1
    obtain ⟨v, c, w, k, o, h⟩ := startEvent_frame s x
    rw [h] at h1 h2
    exact ⟨(congrArg (fun t => (startAll l t).1.rdv) h).trans h1, (congrArg (fun t => (startAll l t).1.time) h).trans h2⟩

/-- The candidate of a sequencer has fields. -/
def Startable (q : Seq) : Prop := ∃ c b, q.candidate = some c ∧ c.seg.body = some b

theorem startable_waitsWith {q : Seq} (h : Startable q) (p : Progress) (c : WaitCause) : Startable (waitsWith q p c) := by
  obtain ⟨e, b, he, hb⟩ := h
  refine ⟨{ e with state := .pending p }, b, ?_, hb⟩
  unfold Seq.candidate
  rw [window_waitsWith he]
  rfl

theorem startEvent_runs (h : Startable (s.seq a)) : ((s.startEvent a).1.seq a).sq = .run := by
  obtain ⟨e, b, he, hb⟩ := h
  rw [startEvent_eq he hb]
  dsimp only
  rw [takeCount_self, seq_activated, if_pos rfl]

/-- The start event of another axis: at most it lets the axis claim its place (R36). -/
theorem startEvent_other {b : Axis} (h : b ≠ a) : (s.startEvent a).1.seq b = s.seq b ∨
    (s.seq b).sq = .wait .cond ∧ (s.startEvent a).1.seq b = waitsWith (s.seq b) .waitStart .place := by
  cases he : (s.seq a).candidate with
  | none =>
    unfold State.startEvent
    rw [he]
    exact .inl rfl
  | some e =>
    cases hb : e.seg.body with
    | none =>
      unfold State.startEvent
      simp only [he, hb]
      exact .inl trivial
    | some d =>
      rw [startEvent_eq he hb]
      dsimp only
      have hs : (activated s a e d).seq b = s.seq b := by rw [seq_activated, if_neg h]
      rw [← hs]
      by_cases hn : NextServed (activated s a e d) a d.start b
      · obtain ⟨n, -, -, -, -, hq⟩ := id hn
        exact .inr ⟨hq, (takeCount_served hn).1⟩
      · exact .inl (takeCount_unserved hn)

theorem startAll_running (l : List Axis) {a : Axis} (h : a ∉ l) : ∀ s : State, (s.seq a).sq = .run →
    ((startAll l s).1.seq a).sq = .run := by
  induction l with
  | nil => exact fun _ h => h
  | cons x l ih =>
    rw [List.mem_cons, not_or] at h
    intro s hs
    refine ih h.2 (s.startEvent x).1 ?_
    rcases startEvent_other s x h.1 with k | ⟨k, -⟩
    · rw [k]; exact hs
    · rw [hs] at k; cases k

theorem startAll_runs (l : List Axis) (hl : l.Nodup) : ∀ s : State, (∀ a ∈ l, Startable (s.seq a)) →
    ∀ a ∈ l, ((startAll l s).1.seq a).sq = .run := by
  induction l with
  | nil => exact fun _ _ _ h => nomatch h
  | cons x l ih =>
    obtain ⟨hx, hl⟩ := List.nodup_cons.1 hl
    intro s hs a ha
    rcases List.mem_cons.1 ha with rfl | ha
    · exact startAll_running l hx _ (startEvent_runs s a (hs a List.mem_cons_self))
    · refine ih hl (s.startEvent x).1 (fun b hb => ?_) a ha
      have hsb := hs b (List.mem_cons_of_mem _ hb)
      rcases startEvent_other s x (fun k : b = x => hx (k ▸ hb)) with k | ⟨-, k⟩
      · rw [k]; exact hsb
      · rw [k]; exact startable_waitsWith hsb _ _

end

/-! ### A fire that fails -/

section
variable (s : State)

theorem halt_own_reason {a : Axis} {r : HaltReason} {k : StopKind} (hl : live s a) (hu : Unarrived s a) :
    ((s.haltCause a r k false).seq a).reason = some r := by
  rw [haltCause_live r k false hl]
  change ((haltEvent (4 + 1) a r k false s).seq a).reason = some r
  obtain ⟨hb, -⟩ := haltEvent_own_of s a r k false 4 (.inr ((halting_haltSelf s a r k false).unarrived hu))
  obtain ⟨x, y, -, hq⟩ := seq_haltSelf s a r k false
  rw [hb.seq_eq fun h => not_live_haltSelf s a r k false (.inr (.inl ⟨_, h⟩)), hq]

/-- A member before the halts: its record or its place is dealt with. -/
theorem failMember_keeps (out : Axis → Option RejectReason) (a : Axis) : (State.failMember out a s).rdv = s.rdv ∧
    ∀ b, ((State.failMember out a s).seq b).sq = (s.seq b).sq := by
  unfold State.failMember
  split
  next r _ =>
    cases he : (s.seq a).candidate with
    | none =>
      unfold State.rejectEntry
      rw [he]
      exact ⟨rfl, fun _ => rfl⟩
    | some e =>
      rw [rejectEntry_eq r he]
      obtain ⟨q, hq⟩ := fill_eq s (.axis a) (segRejected s a e r)
      obtain ⟨v, hv⟩ := lowerUse_eq ((s.fill (.axis a) (segRejected s a e r)).removeHead a) e.seg.bankUse
      refine ⟨?_, fun b => ?_⟩
      · rw [hv, hq]
        rfl
      · rw [seq_lowerUse, State.removeHead, seq_modSeq, (axis_congr (fill_axes s _ _) a).1, (axis_congr (fill_axes s _ _) b).1]
        split
        next h => rw [h]
        next => rfl
  · exact ⟨rfl, fun _ => rfl⟩

theorem failMembers_keep (out : Axis → Option RejectReason) (l : List Axis) : ∀ s : State,
    (forEach l (State.failMember out) s).rdv = s.rdv ∧ ∀ b, ((forEach l (State.failMember out) s).seq b).sq = (s.seq b).sq := by
  induction l with
  | nil => exact fun _ => ⟨rfl, fun _ => rfl⟩
  | cons x l ih =>
    intro s
    obtain ⟨h1, h2⟩ := failMember_keeps s out x
    obtain ⟨k1, k2⟩ := ih (State.failMember out x s)
    exact ⟨k1.trans h1, fun b => (k2 b).trans (h2 b)⟩

/-- The failed fire before the halts: its entry has lost its arrivals, and with several members is broken (R45). -/
def failedEntry (e : EntryNo) : State :=
  (forEach (members (s.entry e).members) (State.failMember s.repeatAt) s).modEntry e fun r =>
    { r with arrived := 0, state := if 2 ≤ (members (s.entry e).members).length then .broken else r.state }

theorem grantFire_fails {e : EntryNo} (h : ∃ a ∈ members (s.entry e).members, s.repeatAt a ≠ none) : s.grantFire e =
    forEach (members (s.entry e).members) (State.haltMember s.repeatAt) (failedEntry s e) := by
  obtain ⟨a, ha, hn⟩ := h
  unfold State.grantFire
  refine if_neg fun k => hn ?_
  have := List.all_eq_true.1 k a ha
  exact Option.isNone_iff_eq_none.1 this

theorem grantFire_passes {e : EntryNo} (h : ∀ a ∈ members (s.entry e).members, s.repeatAt a = none) :
    s.grantFire e = s.fire e (members (s.entry e).members) := by
  unfold State.grantFire
  exact if_pos (List.all_eq_true.2 fun a ha => Option.isNone_iff_eq_none.2 (h a ha))

theorem entry_failedEntry (e d : EntryNo) : (failedEntry s e).entry d =
    if d = e then
      { s.entry e with
        arrived := 0
        state := if 2 ≤ (members (s.entry e).members).length then .broken else (s.entry e).state }
    else s.entry d := by
  have h := (failMembers_keep s.repeatAt (members (s.entry e).members) s).1
  unfold failedEntry
  rw [entry_modEntry]
  unfold State.entry at h ⊢
  rw [h]

theorem sq_failedEntry (e : EntryNo) (b : Axis) : ((failedEntry s e).seq b).sq = (s.seq b).sq :=
  (failMembers_keep s.repeatAt (members (s.entry e).members) s).2 b

theorem halting_haltMember (out : Axis → Option RejectReason) (a : Axis) (s : State) : Halting s (State.haltMember out a s) :=
  halting_haltCause s a _ _ _

theorem not_live_haltMember (out : Axis → Option RejectReason) (a : Axis) (s : State) : ¬ live (State.haltMember out a s) a :=
  not_live_haltCause s a _ _ _

/-- The entry of a failed fire keeps what it has before the halts. -/
theorem entry_failed (e : EntryNo) (l : List Axis) : (forEach l (State.haltMember s.repeatAt) (failedEntry s e)).entry e =
    { s.entry e with
      arrived := 0
      state := if 2 ≤ (members (s.entry e).members).length then .broken else (s.entry e).state } := by
  have h := (Halting.forEach l (halting_haltMember s.repeatAt) (failedEntry s e)).entry e
  rw [entry_failedEntry, if_pos rfl] at h
  exact h.resolve_right fun k => k.1 rfl

theorem bystander_haltMembers (out : Axis → Option RejectReason) {a : Axis} (l : List Axis) (h : a ∉ l) : ∀ s : State,
    Unarrived s a → Bystander a s (forEach l (State.haltMember out) s) := by
  induction l with
  | nil => exact fun s _ => .refl a s
  | cons b l ih =>
    rw [List.mem_cons, not_or] at h
    intro s hu
    have hh := halting_haltMember out b s
    have hb : Bystander a s (State.haltMember out b s) := bystander_haltCause s b _ _ _ h.1 hu
    rw [forEach_cons]
    generalize State.haltMember out b s = t at hh hb
    exact hb.trans hh (Halting.forEach l (halting_haltMember out) t) (ih h.2 t (hh.unarrived hu))

/-- The halt of one of several members, which have arrived nowhere, carries its reason. -/
theorem reason_haltMembers (out : Axis → Option RejectReason) {a : Axis} {l : List Axis} (ha : a ∈ l) (hl : l.Nodup)
    (u : State) (hu : Unarrived u a) (hlive : live u a) :
    ((forEach l (State.haltMember out) u).seq a).reason = some (if (out a).isSome then .reject else .group) := by
  obtain ⟨l1, l2, h1, h2, hs⟩ := forEach_at ha hl (State.haltMember out)
  rw [hs]
  have before := bystander_haltMembers out l1 h1 u hu
  have hv := (Halting.forEach l1 (halting_haltMember out) u).unarrived hu
  generalize forEach l1 (State.haltMember out) u = v at before hv
  have hlv : live v a := by
    rcases before.seq with e | ⟨-, e⟩
    · rw [live_iff, e]; exact hlive
    · rw [live_iff, e]; exact .inr (.inl ⟨_, rfl⟩)
  have hr : ((State.haltMember out a v).seq a).reason = some (if (out a).isSome then .reject else .group) :=
    halt_own_reason v hlv hv
  have hnl := not_live_haltMember out a v
  have hw := (halting_haltMember out a v).unarrived hv
  generalize State.haltMember out a v = w at hr hnl hw
  rw [(bystander_haltMembers out l2 h2 w hw).seq_eq fun k => hnl (.inr (.inl ⟨_, k⟩)), hr]

/-- The halts of the members of a failed fire, where no other entry holds their arrivals. -/
theorem reason_failed {e : EntryNo} (hd : ∀ d, d ≠ e → (s.entry d).arrived &&& (s.entry e).members = 0) {a : Axis}
    (ha : a ∈ members (s.entry e).members) (hl : live s a) :
    ((forEach (members (s.entry e).members) (State.haltMember s.repeatAt) (failedEntry s e)).seq a).reason =
      some (if (s.repeatAt a).isSome then .reject else .group) := by
  refine reason_haltMembers s.repeatAt ha (members_nodup _) _ (fun d => ?_) ?_
  · rw [entry_failedEntry]
    split
    · exact inSet_zero a
    next hde =>
      have hz := (set_eq_zero_iff _).1 (hd d hde) a
      have hm := (mem_members _ a).1 ha
      unfold inSet at hz hm ⊢
      rw [BitVec.getLsbD_and, hm, Bool.and_true] at hz
      exact hz
  · rw [live_iff, sq_failedEntry]
    exact hl

/-- A failed fire of one member. -/
theorem grantFire_single {e : EntryNo} {a : Axis} {why : RejectReason} (hm : members (s.entry e).members = [a])
    (hw : s.repeatAt a = some why) : s.grantFire e =
    ((s.rejectEntry a why).modEntry e fun x => { x with arrived := 0 }).haltCause a .reject .soft false := by
  have hf : failedEntry s e = (s.rejectEntry a why).modEntry e fun x => { x with arrived := 0 } := by
    unfold failedEntry
    rw [hm]
    have h1 : State.failMember s.repeatAt a s = s.rejectEntry a why := by
      unfold State.failMember
      rw [hw]
    rw [forEach_cons, forEach_nil, h1]
    rfl
  rw [grantFire_fails s ⟨a, by rw [hm]; exact List.mem_singleton.2 rfl, by rw [hw]; exact nofun⟩, hf, hm, forEach_cons, forEach_nil]
  unfold State.haltMember
  rw [hw]
  rfl

end

/-- A fire, and what the motions bring (R45). -/
theorem entry_fire (s : State) (e : EntryNo) (ms : List Axis) :
    ((s.fire e ms).entry e).fireCount = (s.entry e).fireCount + 1 ∧ ((s.fire e ms).entry e).lastFire = s.time ∧
    ((∀ x ∈ (startAll ms s).2, x.2 = .none) → (s.fire e ms).entry e =
      { s.entry e with
        arrived := 0
        fireCount := (s.entry e).fireCount + 1
        lastFire := s.time }) := by
  obtain ⟨hr, ht⟩ := startAll_keeps ms s
  have hf : ((startAll ms s).1.fired e).entry e =
      { s.entry e with
        arrived := 0
        fireCount := (s.entry e).fireCount + 1
        lastFire := s.time } := by
    unfold State.fired
    rw [entry_modEntry, if_pos rfl, ht]
    unfold State.entry
    rw [hr]
  have he : (s.fire e ms).entry e = (((startAll ms s).2.map fun x => (x.1, fun u => State.takeMgEvent u x.1 x.2)).foldl
      (fun u x => x.2 u) ((startAll ms s).1.fired e)).entry e := entry_atOneStep ..
  rw [List.foldl_map] at he
  generalize (startAll ms s).1.fired e = t at hf he
  generalize (startAll ms s).2 = l at he ⊢
  have hs := (sameFires_foldl (f := fun u (x : Axis × MgEvent) => State.takeMgEvent u x.1 x.2)
    (fun u x => sameFires_takeMgEvent u x.1 x.2) l t).same e
  rw [he]
  rw [hf] at hs
  refine ⟨hs.1, hs.2, fun hn => ?_⟩
  rw [← hf]
  have hrdv (l : List (Axis × MgEvent)) (hn : ∀ x ∈ l, x.2 = .none) : ∀ t : State,
      (l.foldl (fun u x => State.takeMgEvent u x.1 x.2) t).rdv = t.rdv := by
    induction l with
    | nil => exact fun _ => rfl
    | cons x l ih =>
      intro t
      rw [List.foldl_cons, ih (fun y hy => hn y (List.mem_cons_of_mem _ hy)), hn x List.mem_cons_self, rdv_takeMgEvent_none]
  unfold State.entry
  rw [hrdv l hn t]

/-- Settles O58: the breaks entry by entry, a fire by its start events, and a failed fire by its members. -/
theorem rendezvousBreaksAndFires : Obligations.RendezvousBreaksAndFires := by
  intro s
  refine ⟨fun a e => ⟨?_, breakFor_axes s a, ?_⟩, mem_breakFor s, fun m e => entry_breakCommon s m e, fun e => ?_⟩
  · rw [entry_breakFor]
    exact if_congr (concerns_iff s a e) rfl rfl
  · have h := breakFor_eta s a
    generalize (s.breakFor a).1 = t at h
    rw [h]
  · intro ms t p
    refine ⟨fun h => ?_, fun h h2 => ?_, fun a why hm hw => ?_, fun h hd a ha hl => ?_⟩
    · have ht : t = s.fire e ms := grantFire_passes s h
      obtain ⟨hr, htime⟩ := startAll_keeps ms s
      rw [ht]
      exact ⟨rfl, startAll_axes ms s, hr, htime, startAll_runs ms (members_nodup _) s, entry_fire s e ms⟩
    · have ht : t = _ := grantFire_fails s h
      rw [ht]
      refine ⟨?_, not_live_forEach (halting_haltMember s.repeatAt) (not_live_haltMember s.repeatAt) _ _⟩
      rw [entry_failed, if_pos h2]
    · have ht : t = _ := grantFire_single s hm hw
      refine ⟨ht, ?_, ?_⟩
      · have hf : t = _ := grantFire_fails s ⟨a, by rw [show members (s.entry e).members = [a] from hm]; exact List.mem_singleton.2 rfl,
          by rw [hw]; exact nofun⟩
        rw [hf, entry_failed, show members (s.entry e).members = [a] from hm]
        rfl
      · rw [ht]
        exact not_live_haltCause _ a _ _ _
    · have ht : t = _ := grantFire_fails s h
      rw [ht, reason_failed s hd ha hl]
      cases s.repeatAt a <;> rfl

end Sys2Proof.Proofs
